-- ==== Sys2Proof/Word.lean ====
section
/-! DEFINITION. The word types of SSG: bytes, 32-bit register-file words, the 128-bit counter, byte strings
(00_scope.md rule R12) and the two byte vectors of fixed length, cipher blocks and seed registers (R8, R21). -/

namespace Sys2Proof

/-- A byte, 8 bits (00_scope.md R12). -/
abbrev Byte := BitVec 8

/-- A 32-bit word of the host register file and the command word (20_memory.md R51, 30_encoding.md R80). -/
abbrev Word := BitVec 32

/-- The counter and every value added to it, `CW = 128` bits, arithmetic modulo `2^128` (10_state.md R23). -/
abbrev Counter := BitVec 128

/-- A native integer's bit pattern, `W = 64` bits (00_scope.md R9). -/
abbrev Native := BitVec 64

/-- A byte string; its head is byte 0 (00_scope.md R12). -/
abbrev ByteString := List Byte

/-- A cipher block of `BLOCK = 16` bytes, byte 0 first (00_scope.md R8). -/
abbrev Block := Vector Byte 16

/-- A 32-byte register: `SEED` and `SEEDIN` (10_state.md R21, R31). -/
abbrev SeedBytes := Vector Byte 32

end Sys2Proof
end

