-- ==== Sys2Proof/Config.lean ====
section
/-! DEFINITION. What an SSG is built with: the numeric parameters of 00_scope.md rules R8 and R9 at the values the spec
takes, and the three parameters the spec leaves OPEN, as constants with no body: the cipher function `E` (R10), the
two capability inputs (R9, 92_eei_decisions.md D18) and the base address (D30). -/

namespace Sys2Proof

/-- A cipher key of exactly 16 or 32 bytes: 16 select the 128-bit cipher, 32 the 256-bit one (20_memory.md R58). -/
inductive Key where
  | k128 (bytes : Vector Byte 16)
  | k256 (bytes : Vector Byte 32)
  deriving DecidableEq, Repr

/-- The key as a byte string. -/
def Key.bytes : Key → ByteString
  | .k128 k => k.toList
  | .k256 k => k.toList

/-- A block cipher in the forward direction: total, a function of key and block alone (00_scope.md R10, 20_memory.md R63). -/
abbrev Cipher := Key → Block → Block

/-- The two capability inputs: does the attached engine run CTR mode natively for 128-bit and for 256-bit keys
(00_scope.md R9; `CAP` bits 0 and 1, 10_state.md R37). -/
structure Caps where
  ctr128 : Bool
  ctr256 : Bool
  deriving DecidableEq, Repr, Inhabited

namespace Config

/-- The cipher block and the unit of the counter, in bytes (00_scope.md R8). -/
abbrev block : Nat := 16

/-- The number of draws after which the integer engine fails (00_scope.md R8, 41_getint.md R136). -/
abbrev maxAttempts : Nat := 128

/-- The length in bytes of the reseed material of the erasure commands (00_scope.md R8). -/
abbrev eraseLen : Nat := 32

/-- The native integer width `W` (00_scope.md R9, 92_eei_decisions.md D4). -/
abbrev nativeWidth : Nat := 64

/-- The cipher function `E` of 00_scope.md R10, uninterpreted: the spec does not reproduce AES. Log entry 1. -/
opaque cipherE : Cipher

/-- The capability inputs as they stand when `State.reset` samples them; OPEN in the spec (R9, D18). Log entry 2. -/
opaque capInputs : Caps

/-- `SSG_BASE`, the platform's address of the register file; OPEN in the spec and no rule depends on it
(20_memory.md R51, D30). Log entry 16. -/
opaque ssgBase : Nat

end Config

end Sys2Proof
end

