-- ==== Sys2Proof/Syntax.lean ====
section
/-! DEFINITION. The commands of SSG: one constructor for each of the nine rows of spec/opcode_table.json
(30_encoding.md rules R86 and R94). -/

namespace Sys2Proof

/-- A decoded command. Its other operands stand in the operand registers (30_encoding.md R84, R90). -/
inductive Instr where
  /-- `RESEED`, with the seed length `SLEN` in bytes from the command word (42_seek_reseed.md R153). -/
  | reseed (slen : Nat)
  /-- `SEEK.SET` (42_seek_reseed.md R150). -/
  | seekSet
  /-- `SEEK.INC` (42_seek_reseed.md R151). -/
  | seekInc
  /-- `GETBYTES` (40_getbytes.md R108). -/
  | getBytes
  /-- `GETINT` (41_getint.md R137). -/
  | getInt
  /-- `E.SEEK.SET` (43_erasure.md R176). -/
  | eSeekSet
  /-- `E.SEEK.INC` (43_erasure.md R177). -/
  | eSeekInc
  /-- `E.GETBYTES` (43_erasure.md R172). -/
  | eGetBytes
  /-- `E.GETINT` (43_erasure.md R174). -/
  | eGetInt
  deriving DecidableEq, Repr

/-- The erasure commands, `E = 1` (00_scope.md R14, 30_encoding.md R81). -/
def Instr.isErasure : Instr → Bool
  | .eSeekSet | .eSeekInc | .eGetBytes | .eGetInt => true
  | .reseed _ | .seekSet | .seekInc | .getBytes | .getInt => false

/-- `RESEED`, the one command that is legal before a seed is held (60_exceptions.md R195). -/
def Instr.isReseed : Instr → Bool
  | .reseed _ => true
  | .seekSet | .seekInc | .getBytes | .getInt | .eSeekSet | .eSeekInc | .eGetBytes | .eGetInt => false

end Sys2Proof
end

