-- ==== Sys2Proof/WellFormed.lean ====
section
/-! DEFINITION. Which commands a command word can carry: `SLEN` is a six-bit field (30_encoding.md rules R81 and R83);
no other command has an operand of its own. -/

namespace Sys2Proof

/-- The command has an encoding: `RESEED`'s seed length fits the field `SLEN`, 0 to 63 (30_encoding.md R81). -/
def Instr.wellFormed : Instr → Bool
  | .reseed slen => decide (slen ≤ 63)
  | .seekSet | .seekInc | .getBytes | .getInt | .eSeekSet | .eSeekInc | .eGetBytes | .eGetInt => true

end Sys2Proof
end

