-- ==== Sys2Proof/Decode.lean ====
section
/-! DEFINITION. The command word, format `C` (30_encoding.md rules R80 to R89): its fields, the total decoder of rule R87
that names why it rejects a word, the opcode map of rule R86 as a list of rows, and the encoder. -/

namespace Sys2Proof

/-- `OP`, bits 3:0 (30_encoding.md R81). -/
def fieldOp (w : Word) : BitVec 4 := w.extractLsb' 0 4

/-- `E`, bit 4 (R81). -/
def fieldE (w : Word) : BitVec 1 := w.extractLsb' 4 1

/-- `MODE`, bit 5: 0 `SET`, 1 `INCREASE` (R81, R82). -/
def fieldMode (w : Word) : BitVec 1 := w.extractLsb' 5 1

/-- The reserved bits 7:6 (R81). -/
def fieldReservedLow (w : Word) : BitVec 2 := w.extractLsb' 6 2

/-- `SLEN`, bits 13:8 (R81, R83). -/
def fieldSlen (w : Word) : BitVec 6 := w.extractLsb' 8 6

/-- The reserved bits 31:14 (R81). -/
def fieldReservedHigh (w : Word) : BitVec 18 := w.extractLsb' 14 18

/-- Why a word is no command; each is a case of 30_encoding.md R88 and completes with `IllegalCommand`. -/
inductive IllegalWord where
  /-- A nonzero bit in 7:6 or 31:14. -/
  | reservedBits
  /-- `OP = 1` with `E = 1` or `MODE = 1`: there is no erasure reseed. -/
  | reseedVariant
  /-- `SLEN ≠ 0` on a command other than `RESEED`. -/
  | slenNotZero
  /-- `MODE = 1` on a command other than a seek. -/
  | modeNotZero
  /-- `OP` 0 or 5 to 15. -/
  | reservedOp
  deriving DecidableEq, Repr

/-- The decoder of 30_encoding.md R87, total on all `2^32` words. -/
def decode (w : Word) : Except IllegalWord Instr :=
  if fieldReservedHigh w ≠ 0 ∨ fieldReservedLow w ≠ 0 then .error .reservedBits
  else if fieldOp w = 1 then
    if fieldE w = 1 ∨ fieldMode w = 1 then .error .reseedVariant
    else .ok (.reseed (fieldSlen w).toNat)
  else if fieldSlen w ≠ 0 then .error .slenNotZero
  else if fieldOp w = 2 then
    if fieldE w = 0 then (if fieldMode w = 0 then .ok .seekSet else .ok .seekInc)
    else (if fieldMode w = 0 then .ok .eSeekSet else .ok .eSeekInc)
  else if fieldMode w = 1 then .error .modeNotZero
  else if fieldOp w = 3 then (if fieldE w = 0 then .ok .getBytes else .ok .eGetBytes)
  else if fieldOp w = 4 then (if fieldE w = 0 then .ok .getInt else .ok .eGetInt)
  else .error .reservedOp

/-- A command word put together from its fields, all reserved bits 0 (30_encoding.md R81). -/
def commandWord (op : BitVec 4) (e mode : BitVec 1) (slen : BitVec 6) : Word :=
  op.zeroExtend 32 ||| (e.zeroExtend 32 <<< 4) ||| (mode.zeroExtend 32 <<< 5) ||| (slen.zeroExtend 32 <<< 8)

/-- The encoder: the fields of each row of the opcode map (30_encoding.md R86). A seed length that is not well formed
has no word; it is cut to the six bits of `SLEN`. -/
def encode : Instr → Word
  | .reseed slen => commandWord 1 0 0 (BitVec.ofNat 6 slen)
  | .seekSet => commandWord 2 0 0 0
  | .seekInc => commandWord 2 0 1 0
  | .getBytes => commandWord 3 0 0 0
  | .getInt => commandWord 4 0 0 0
  | .eSeekSet => commandWord 2 1 0 0
  | .eSeekInc => commandWord 2 1 1 0
  | .eGetBytes => commandWord 3 1 0 0
  | .eGetInt => commandWord 4 1 0 0

/-- A row of the opcode map: a word `w` selects it when `(w AND mask) = pattern` (30_encoding.md R86). -/
structure OpcodeRow where
  mnemonic : String
  pattern : Word
  mask : Word
  deriving DecidableEq, Repr

/-- The word selects the row (R86). -/
def OpcodeRow.selects (r : OpcodeRow) (w : Word) : Bool := (w &&& r.mask) == r.pattern

/-- The complete map of 30_encoding.md R86, in its order. -/
def opcodeTable : List OpcodeRow :=
  [ ⟨"RESEED", 0x00000001, 0xFFFFC0FF⟩,
    ⟨"SEEK.SET", 0x00000002, 0xFFFFFFFF⟩,
    ⟨"SEEK.INC", 0x00000022, 0xFFFFFFFF⟩,
    ⟨"GETBYTES", 0x00000003, 0xFFFFFFFF⟩,
    ⟨"GETINT", 0x00000004, 0xFFFFFFFF⟩,
    ⟨"E.SEEK.SET", 0x00000012, 0xFFFFFFFF⟩,
    ⟨"E.SEEK.INC", 0x00000032, 0xFFFFFFFF⟩,
    ⟨"E.GETBYTES", 0x00000013, 0xFFFFFFFF⟩,
    ⟨"E.GETINT", 0x00000014, 0xFFFFFFFF⟩ ]

/-- The row a command belongs to, by its mnemonic (30_encoding.md R86). -/
def Instr.mnemonic : Instr → String
  | .reseed _ => "RESEED"
  | .seekSet => "SEEK.SET"
  | .seekInc => "SEEK.INC"
  | .getBytes => "GETBYTES"
  | .getInt => "GETINT"
  | .eSeekSet => "E.SEEK.SET"
  | .eSeekInc => "E.SEEK.INC"
  | .eGetBytes => "E.GETBYTES"
  | .eGetInt => "E.GETINT"

/-- The command the decoder reads from the 32-bit command word `w`; every bit from `nbits` up is 0. SSG's command word is
one 32-bit value with no byte order of its own (20_memory.md R66), so the table's bit numbers are the word's. -/
def decodeTableWord (nbits w : Nat) : Option Instr :=
  match decode (BitVec.ofNat 32 (w % 2 ^ nbits)) with
  | .ok i => some i
  | .error _ => none

end Sys2Proof
end

