-- ==== Sys2Proof/Machine/State.lean ====
section
/-! DEFINITION. All the state of SSG (10_state.md rules R20 to R40), with what stands around it in this model: the host's
pending register accesses, the words its reads returned, and the cipher-port requests of the last command. -/

namespace Sys2Proof.Machine

/-- `KEYLEN`, held in one bit: 0 means 128, 1 means 256 (10_state.md R22). -/
inductive KeyLen where
  | bits128
  | bits256
  deriving DecidableEq, Repr

/-- `BSEL`, the backend selector: 0 native CTR, 1 CTR emulated over ECB (10_state.md R24). -/
inductive Backend where
  | native
  | emulated
  deriving DecidableEq, Repr

/-- The completion codes 0 to 6 of `STATUS.ERR` (60_exceptions.md R190). -/
inductive CompletionCode where
  /-- 0: completed normally. -/
  | ok
  /-- 1: `RESEED` with `SLEN` neither 16 nor 32 (R191). -/
  | invalidSeedLength
  /-- 2: `min > max` (R192). -/
  | invalidRange
  /-- 3: 128 draws, all rejected (R193). -/
  | generatorExhausted
  /-- 4: kept reserved, raised by nothing (R194). -/
  | invalidSeekMode
  /-- 5: any command but `RESEED` before a seed is held (R195). -/
  | notSeeded
  /-- 6: the word is no command, or an erasure command found a 128-bit key (R196). -/
  | illegalCommand
  deriving DecidableEq, Repr

/-- The two request kinds of the cipher port, without the key (20_memory.md R59, R60). -/
inductive PortOp where
  /-- `CipherCTR`: `n` zero bytes in CTR mode from the initial counter block `iv`. -/
  | ctr (iv : Block) (n : Nat)
  /-- `CipherECB`: the blocks, encrypted independently. -/
  | ecb (blocks : List Block)
  deriving DecidableEq, Repr

/-- A cipher-port request as an event (20_memory.md R61). The key length stands for the key: the key's bytes stay in
`SEED` and are not copied (10_state.md R39). Log entry 5. -/
structure PortEvent where
  keylen : KeyLen
  op     : PortOp
  deriving DecidableEq, Repr

/-- One thing the host does to SSG (00_scope.md R5, 70_reset_and_hazards.md R220). -/
inductive HostAction where
  /-- A read of `width` bytes at byte offset `offset` of the register file. -/
  | read (offset width : Nat)
  /-- A write of `width` bytes at byte offset `offset`; `value` is what a 32-bit write carries. -/
  | write (offset width : Nat) (value : Word)
  /-- The reset input is asserted and released; the capability inputs are sampled as `caps`. -/
  | reset (caps : Caps)
  deriving DecidableEq, Repr

/-- The registers of the host register file (20_memory.md R51); `k` numbers the words of a register of several words. -/
inductive HostReg where
  | cmd
  | status
  | len
  | dout
  | pos (k : Fin 4)
  | min (k : Fin 2)
  | max (k : Fin 2)
  | result (k : Fin 2)
  | seedin (k : Fin 8)
  | ctr (k : Fin 4)
  | cap
  | reserved
  deriving DecidableEq, Repr

/-- The state of SSG. -/
@[ext]
structure State where
  /-- `SEEDED` (10_state.md R25). -/
  seeded  : Bool
  /-- `SEED[0..31]`, the secret key bytes (R21). -/
  seed    : SeedBytes
  /-- `KEYLEN` (R22). -/
  keylen  : KeyLen
  /-- `CTR`, the block counter (R23). -/
  ctr     : Counter
  /-- `BSEL` (R24). -/
  bsel    : Backend
  /-- `LEN`, the byte count operand (R28). -/
  len     : Word
  /-- `POS0..POS3`, the position and counter operand (R29). -/
  pos     : Counter
  /-- `MIN_LO`, `MIN_HI` (R30). -/
  minReg  : Native
  /-- `MAX_LO`, `MAX_HI` (R30). -/
  maxReg  : Native
  /-- `SEEDIN[0..31]`, the seed staging register (R31). -/
  seedin  : SeedBytes
  /-- `RESULT_LO`, `RESULT_HI` (R32). -/
  result  : Native
  /-- The completion code of the last command launched: what `STATUS.ERR` reads once its output is drained (R33, R190). -/
  err     : CompletionCode
  /-- The code of the command before it: what `STATUS.ERR` reads until then (R33 with 70_reset_and_hazards.md R227). Log entry 7. -/
  errPrev : CompletionCode
  /-- The output bytes the host has not read from `DOUT` yet, next byte first (R38, 20_memory.md R57). -/
  out     : ByteString
  /-- `CAP`, the capability inputs as sampled at reset (R37). -/
  cap     : Caps
  /-- The model's own: what the host does next, in order (60_exceptions.md R201). Log entry 3. -/
  host    : List HostAction
  /-- The model's own: the words the host's reads returned, oldest first. Log entry 4. -/
  reads   : List Word
  /-- The model's own: the cipher-port requests of the last command launched, oldest first (20_memory.md R61). Log entry 5. -/
  port    : List PortEvent
  deriving DecidableEq, Repr

/-- The reasons SSG could stop for ever. There is none: every command completes, with `OK` or with an error code that is a
next state (00_scope.md R6, 60_exceptions.md R198). Safe: no run of the model ends in a fault. Log entry 13. -/
inductive Fault
  deriving DecidableEq, Repr

/-- What the model gives no meaning to. -/
inductive Refusal where
  /-- Raised by an arm of `exec` that has no meaning yet; no arm is in that case. Safe. -/
  | notModelled (mnemonic : String)
  /-- Raised by a register access that is not an aligned 32-bit access, or lies beyond offset `0x7F` (20_memory.md R52,
  93_implementation_defined.md U6: "refuse"). Safe. Log entry 8. -/
  | unsupportedAccess
  /-- Raised by a write of `CMD` or an operand register, or a read of `CTR` or `RESULT`, while `BUSY = 1`
  (70_reset_and_hazards.md R225, R226, 93_implementation_defined.md U4: "refuse"). Safe. Log entry 8. -/
  | accessWhileBusy
  deriving DecidableEq, Repr

/-- A 32-byte register holding all zeros. -/
def zeroSeed : SeedBytes := Vector.replicate 32 0

/-- SSG right after reset, with the capability inputs sampled as `caps` (10_state.md R40, 70_reset_and_hazards.md R221). -/
def State.resetWith (caps : Caps) : State where
  seeded := false
  seed := zeroSeed
  keylen := .bits128
  ctr := 0
  bsel := .native
  len := 0
  pos := 0
  minReg := 0
  maxReg := 0
  seedin := zeroSeed
  result := 0
  err := .ok
  errPrev := .ok
  out := []
  cap := caps
  host := []
  reads := []
  port := []

/-- SSG right after reset, the capability inputs as the platform has them (10_state.md R40). -/
def State.reset : State := State.resetWith Config.capInputs

end Sys2Proof.Machine
end

