-- ==== Sys2Proof/Machine/Operands.lean ====
section
/-! DEFINITION. Bytes, words and integers (00_scope.md rules R12 and R13), the words and bytes of a wide register
(20_memory.md R53), and the operands a command samples (30_encoding.md R90). -/

namespace Sys2Proof.Machine

/-- `ceil_div(a, b) = (a + b - 1) div b` (00_scope.md R12). -/
def ceilDiv (a b : Nat) : Nat := (a + b - 1) / b

/-- `bitlen(r)`: the least `b` with `r < 2^b` (00_scope.md R12, a priority encoder by 41_getint.md R144). -/
def bitlen (r : Nat) : Nat := if r = 0 then 0 else Nat.log2 r + 1

/-- `be128(c)`: the 16-byte big-endian string of `c` (00_scope.md R13). -/
def be128 (c : Counter) : Block := Vector.ofFn fun i : Fin 16 => c.extractLsb' (8 * (15 - i.val)) 8

/-- `int_be(B)`, the inverse of `be128`, for any length (00_scope.md R13). -/
def intBE (b : ByteString) : Nat := b.foldl (fun acc x => 256 * acc + x.toNat) 0

/-- `int_le(B) = Σ B[i]·2^(8i)` (00_scope.md R13). -/
def intLE : ByteString → Nat
  | [] => 0
  | x :: rest => x.toNat + 256 * intLE rest

/-- `sint_W(v)`, the two's complement reading of a `W`-bit pattern (00_scope.md R13). -/
def sintW (W : Nat) (v : Nat) : Int := if v < 2 ^ (W - 1) then (v : Int) else (v : Int) - 2 ^ W

/-- Bytewise exclusive-or (00_scope.md R12). -/
def xorBytes (a b : ByteString) : ByteString := List.zipWith (· ^^^ ·) a b

/-- `0^n`: `n` zero bytes (00_scope.md R12). -/
def zeros (n : Nat) : ByteString := List.replicate n 0

/-- The 32-byte register that holds a byte string from byte 0 on, zero beyond it (42_seek_reseed.md R153). -/
@[irreducible] def toSeed (b : ByteString) : SeedBytes := Vector.ofFn fun i : Fin 32 => b.getD i.val 0

/-- Word `k` of a register of several words, less significant words first (20_memory.md R53). -/
def getWord {n : Nat} (v : BitVec n) (k : Nat) : Word := v.extractLsb' (32 * k) 32

/-- The register with its word `k` replaced (20_memory.md R53). -/
def setWord {n : Nat} (v : BitVec n) (k : Nat) (w : Word) : BitVec n :=
  (v &&& ~~~((BitVec.allOnes 32).zeroExtend n <<< (32 * k))) ||| (w.zeroExtend n <<< (32 * k))

/-- Byte `j` of a word, byte 0 in bits 7:0 (20_memory.md R53). -/
def byteOfWord (w : Word) (j : Nat) : Byte := w.extractLsb' (8 * j) 8

/-- Seed byte `j` is byte `j mod 4` of word `j div 4`; the other bytes stay (20_memory.md R53, 10_state.md R31). -/
@[irreducible] def setSeedWord (v : SeedBytes) (k : Nat) (w : Word) : SeedBytes :=
  Vector.ofFn fun j : Fin 32 => if j.val / 4 = k then byteOfWord w (j.val % 4) else v[j.val]

/-- Operand `n` of `GETBYTES` and `E.GETBYTES`: `LEN`, unsigned (30_encoding.md R90). -/
def operandLen (s : State) : Nat := s.len.toNat

/-- Operand `position` of the seeks and `counter` of `RESEED`: `POS`, unsigned (30_encoding.md R90). -/
def operandPos (s : State) : Counter := s.pos

/-- Operand `min` of the integer commands, signed (30_encoding.md R90, 41_getint.md R130). -/
def operandMin (s : State) : Int := sintW Config.nativeWidth s.minReg.toNat

/-- Operand `max` of the integer commands, signed (30_encoding.md R90, 41_getint.md R130). -/
def operandMax (s : State) : Int := sintW Config.nativeWidth s.maxReg.toNat

/-- Operand `seed` of `RESEED`: `SEEDIN[0 .. SLEN-1]` (30_encoding.md R90). -/
def operandSeed (slen : Nat) (s : State) : ByteString := s.seedin.toList.take slen

end Sys2Proof.Machine
end

