-- ==== Sys2Proof/Machine/Flags.lean ====
section
/-! DEFINITION. `STATUS` and the completion codes (10_state.md rule R33, 60_exceptions.md rule R190), and `CAP` (R37). SSG has
no condition codes (10_state.md R35). -/

namespace Sys2Proof.Machine

/-- The number of a completion code (60_exceptions.md R190). -/
def CompletionCode.number : CompletionCode → BitVec 4
  | .ok => 0
  | .invalidSeedLength => 1
  | .invalidRange => 2
  | .generatorExhausted => 3
  | .invalidSeekMode => 4
  | .notSeeded => 5
  | .illegalCommand => 6

/-- `STATUS.DAVAIL`: an output byte waits in `DOUT` (10_state.md R33). -/
def State.davail (s : State) : Bool := !s.out.isEmpty

/-- `STATUS.BUSY`: the output bytes are not all read (10_state.md R33, 20_memory.md R57). A command itself is atomic in this
model (20_memory.md R67), so between steps `BUSY` and `DAVAIL` are equal. Log entry 6. -/
def State.busy (s : State) : Bool := !s.out.isEmpty

/-- `STATUS.ERR`: the code of the last COMPLETED command; a command with output completes when its last byte is read
(10_state.md R33, 70_reset_and_hazards.md R227). Log entry 7. -/
def State.statusErr (s : State) : CompletionCode := if s.busy then s.errPrev else s.err

/-- `KEYLEN` as its bit (10_state.md R22). -/
def KeyLen.bit : KeyLen → Bool
  | .bits128 => false
  | .bits256 => true

/-- `BSEL` as its bit (10_state.md R24). -/
def Backend.bit : Backend → Bool
  | .native => false
  | .emulated => true

/-- A bit placed at position `k` of a word. -/
def bitAt (b : Bool) (k : Nat) : Word := (BitVec.ofBool b).zeroExtend 32 <<< k

/-- The word `STATUS` reads as: `BUSY` 0, `SEEDED` 1, `KEYLEN` 2, `BSEL` 3, `ERR` 7:4, `DAVAIL` 8, the rest 0 (10_state.md R33). -/
def statusWord (s : State) : Word :=
  bitAt s.busy 0 ||| bitAt s.seeded 1 ||| bitAt s.keylen.bit 2 ||| bitAt s.bsel.bit 3
    ||| (s.statusErr.number.zeroExtend 32 <<< 4) ||| bitAt s.davail 8

/-- The word `CAP` reads as: `CAP_CTR128` 0, `CAP_CTR256` 1, the rest 0 (10_state.md R37). -/
def capWord (s : State) : Word := bitAt s.cap.ctr128 0 ||| bitAt s.cap.ctr256 1

end Sys2Proof.Machine
end

