-- ==== Sys2Proof/Machine/Ops.lean ====
section
/-! DEFINITION. The operations the commands share: the nonce and the 128-bit increment, the cipher port, the keystream
request with its counter advance (20_memory.md R58 to R63, 40_getbytes.md R100 to R107), the replace of seed, key length,
counter and backend (10_state.md R27), and taking an error or completing (60_exceptions.md R198). -/

namespace Sys2Proof.Machine

/-- What a command or a step answers. -/
abbrev Answer := Host.Outcome State Fault Refusal

/-! ## Completion -/

/-- Taking an error: the command ends and `STATUS.ERR` gets the code; nothing is saved and control goes nowhere. All other
state is as the lines before left it (60_exceptions.md R198). There is no return from an error (R200). -/
def raise (c : CompletionCode) (s : State) : Answer := .next { s with err := c }

/-- Normal completion: `STATUS.ERR` gets `OK` (60_exceptions.md R198). -/
def complete (s : State) : Answer := .next { s with err := .ok }

/-- Normal completion of a command that returns bytes: they wait in `DOUT` for the host (20_memory.md R57). -/
def completeWith (out : ByteString) (s : State) : Answer := complete { s with out := out }

/-- The test every command but `RESEED` makes first (60_exceptions.md R195, R197). -/
def whenSeeded (s : State) (body : Answer) : Answer := if s.seeded then body else raise .notSeeded s

/-- The two tests of every erasure command, in order, before anything else (43_erasure.md R171). -/
def whenErasable (s : State) (body : Answer) : Answer :=
  whenSeeded s (if s.keylen = .bits256 then body else raise .illegalCommand s)

/-! ## Nonce, increment and keystream -/

/-- `NONCE(c)`: the counter as the cipher mode's whole initial counter block, big-endian (40_getbytes.md R100). -/
def nonce (c : Counter) : Block := be128 c

/-- `INC128(B) = be128((int_be(B) + 1) mod 2^128)` (40_getbytes.md R101). -/
def inc128 (b : Block) : Block := be128 (BitVec.ofNat 128 (intBE b.toList + 1))

/-- The concatenation of `E(K, B)` over blocks `B`. -/
def encryptBlocks (E : Cipher) (K : Key) (blocks : List Block) : ByteString := blocks.flatMap fun b => (E K b).toList

/-- The counter blocks of a request for `k` blocks at counter `c` (40_getbytes.md R102). -/
def counterBlocks (c : Counter) (k : Nat) : List Block := (List.range k).map fun i => nonce (c + BitVec.ofNat 128 i)

/-- `KS(K, c, n)`, the keystream by its definition, whatever the backend (40_getbytes.md R102). -/
def ks (E : Cipher) (K : Key) (c : Counter) (n : Nat) : ByteString :=
  (encryptBlocks E K (counterBlocks c (ceilDiv n Config.block))).take n

/-- The first `k` blocks of the chain `N, INC128(N), INC128(INC128(N)), …` (40_getbytes.md R104). -/
def nonceChain (b : Block) : Nat → List Block
  | 0 => []
  | k + 1 => b :: nonceChain (inc128 b) k

/-! ## The cipher port -/

/-- A cipher-port request: every request carries the key (20_memory.md R58). -/
structure PortRequest where
  key : Key
  op  : PortOp
  deriving DecidableEq, Repr

/-- `CipherCTR(K, iv, n)`: the contract the engine's CTR mode keeps, incrementing all 16 bytes (20_memory.md R59). -/
def cipherCTR (E : Cipher) (K : Key) (iv : Block) (n : Nat) : ByteString :=
  xorBytes (zeros n)
    ((encryptBlocks E K
      ((List.range (ceilDiv n Config.block)).map fun i => be128 (BitVec.ofNat 128 (intBE iv.toList + i)))).take n)

/-- `CipherECB(K, B_0 || … )`: the engine's ECB mode (20_memory.md R60). -/
def cipherECB (E : Cipher) (K : Key) (blocks : List Block) : ByteString := encryptBlocks E K blocks

/-- The engine's answer: a total pure function of the request (20_memory.md R63). -/
def engineAnswer (E : Cipher) (r : PortRequest) : ByteString :=
  match r.op with
  | .ctr iv n => cipherCTR E r.key iv n
  | .ecb blocks => cipherECB E r.key blocks

/-- The key of every request: `SEED[0 .. KEYLEN/8 - 1]` (20_memory.md R58). -/
def State.key (s : State) : Key :=
  match s.keylen with
  | .bits128 => .k128 (Vector.ofFn fun i : Fin 16 => s.seed[i.val])
  | .bits256 => .k256 s.seed

/-- The one request a keystream request for `n ≥ 1` bytes at counter `c` makes (20_memory.md R61, 40_getbytes.md R103, R104). -/
def portOp (b : Backend) (c : Counter) (n : Nat) : PortOp :=
  match b with
  | .native => .ctr (nonce c) n
  | .emulated => .ecb (nonceChain (nonce c) (ceilDiv n Config.block))

/-- What SSG does with the engine's answer: nothing natively; the mode's exclusive-or with `0^n` and the truncation when
CTR is emulated (40_getbytes.md R103 to R105). -/
def assembleKeystream (b : Backend) (n : Nat) (answer : ByteString) : ByteString :=
  match b with
  | .native => answer
  | .emulated => xorBytes (zeros n) (answer.take n)

/-- The *advance* transition: the counter moves on and the port's requests are recorded (10_state.md R27). -/
def advance (c : Counter) (events : List PortEvent) (s : State) : State :=
  { s with ctr := c, port := s.port ++ events }

/-- `KeystreamRequest(n)`: the bytes, and the state with `CTR` advanced by `ceil_div(n, 16)` blocks modulo `2^128`
(40_getbytes.md R107). A request for 0 bytes makes no port request (20_memory.md R61). -/
def keystreamRequest (E : Cipher) (n : Nat) (s : State) : ByteString × State :=
  if n = 0 then ([], s)
  else
    let op := portOp s.bsel s.ctr n
    (assembleKeystream s.bsel n (engineAnswer E ⟨s.key, op⟩),
      advance (s.ctr + BitVec.ofNat 128 (ceilDiv n Config.block)) [⟨s.keylen, op⟩] s)

/-! ## Replace -/

/-- `backend(KEYLEN)`: native when the engine's CTR mode serves that key length (42_seek_reseed.md R155). -/
def backend (caps : Caps) (k : KeyLen) : Backend :=
  match k with
  | .bits128 => if caps.ctr128 then .native else .emulated
  | .bits256 => if caps.ctr256 then .native else .emulated

/-- The *replace* transition: seed, key length and counter, with the backend evaluated anew (10_state.md R27,
42_seek_reseed.md R155). -/
def replaceStream (seed : SeedBytes) (k : KeyLen) (counter : Counter) (s : State) : State :=
  { s with seed := seed, keylen := k, ctr := counter, bsel := backend s.cap k }

/-- The erasure commands' replace: 32 keystream bytes become the seed and the counter goes to 0 (43_erasure.md R172, R174). -/
def eraseWith (material : ByteString) (s : State) : State := replaceStream (toSeed material) .bits256 0 s

end Sys2Proof.Machine
end

