-- ==== Sys2Proof/Machine/GetInt.lean ====
section
/-! DEFINITION. The rejection-sampling ranged-integer engine and `GETINT` (41_getint.md rules R130 to R144). The arithmetic is
written for a native width `W` (R143) on exact integers. -/

namespace Sys2Proof.Machine

/-- What the range analysis gives: the case, the bytes of a draw and the mask (41_getint.md R133, R134). -/
structure Sampling where
  wide   : Bool
  nbytes : Nat
  mask   : Nat
  deriving DecidableEq, Repr

/-- The range analysis of `min < max`: the wide case when the exact `max - min` does not fit the native signed integer, else
the least number of bits that cover it (41_getint.md R132 to R134). -/
def rangeAnalysis (W : Nat) (min max : Int) : Sampling :=
  let range := (max - min).toNat
  if range > 2 ^ (W - 1) - 1 then ⟨true, W / 8, 2 ^ W - 1⟩
  else
    let bits := bitlen range
    ⟨false, ceilDiv bits 8, 2 ^ bits - 1⟩

/-- The candidate of a draw value `v`: `min + v`, or in the wide case `sint_W(v)`, exact (41_getint.md R135). -/
def candidateOf (W : Nat) (p : Sampling) (min : Int) (v : Nat) : Int := if p.wide then sintW W v else min + v

/-- The draw value: the bytes little-endian, masked (41_getint.md R135). -/
def drawValue (p : Sampling) (b : ByteString) : Nat := intLE b &&& p.mask

/-- A candidate is accepted when it lies in the closed range (41_getint.md R136). -/
def accepts (min max cand : Int) : Bool := decide (min ≤ cand) && decide (cand ≤ max)

/-- The draw loop: at most as many draws as the first argument allows; the accepted candidate if there is one, and the state
with the counter past the draws made (41_getint.md R136, R137). -/
def drawLoop (E : Cipher) (min max : Int) : Nat → State → Option Int × State
  | 0, s => (none, s)
  | k + 1, s =>
    let p := rangeAnalysis Config.nativeWidth min max
    let (b, s') := keystreamRequest E p.nbytes s
    let cand := candidateOf Config.nativeWidth p min (drawValue p b)
    if accepts min max cand then (some cand, s') else drawLoop E min max k s'

/-- `RESULT <- r mod 2^W` (41_getint.md R130). -/
def writeResult (r : Int) (s : State) : State := { s with result := BitVec.ofInt Config.nativeWidth r }

/-- `GETINT` from the second line of its pseudocode on: the completion code, and the state with `RESULT` written on `OK` only
(41_getint.md R137). -/
def sampleInt (E : Cipher) (s : State) : CompletionCode × State :=
  let min := operandMin s
  let max := operandMax s
  if min > max then (.invalidRange, s)
  else if min = max then (.ok, writeResult min s)
  else
    match drawLoop E min max Config.maxAttempts s with
    | (some r, s') => (.ok, writeResult r s')
    | (none, s') => (.generatorExhausted, s')

/-- `GETINT` over a cipher `E` (41_getint.md R137). -/
def getInt (E : Cipher) (s : State) : Answer :=
  whenSeeded s <|
    match sampleInt E s with
    | (.ok, s') => complete s'
    | (c, s') => raise c s'

/-- `GETINT` (41_getint.md R137). -/
def execGetInt (s : State) : Answer := getInt Config.cipherE s

end Sys2Proof.Machine
end

