-- ==== Sys2Proof/Machine/Stream.lean ====
section
/-! DEFINITION. The stream commands that make no draw: `GETBYTES` (40_getbytes.md rule R108), `SEEK.SET`, `SEEK.INC` and `RESEED`
(42_seek_reseed.md rules R150, R151 and R153). -/

namespace Sys2Proof.Machine

/-- `GETBYTES` over a cipher `E` (40_getbytes.md R108). -/
def getBytes (E : Cipher) (s : State) : Answer :=
  whenSeeded s <|
    let (out, s') := keystreamRequest E (operandLen s) s
    completeWith out s'

/-- `GETBYTES` (40_getbytes.md R108). -/
def execGetBytes (s : State) : Answer := getBytes Config.cipherE s

/-- `CTR <- position`, shared by the two absolute seeks (42_seek_reseed.md R150, 43_erasure.md R176). -/
def seekTo (s : State) : Answer := complete { s with ctr := operandPos s }

/-- `CTR <- (CTR + position) mod 2^128`, shared by the two relative seeks (42_seek_reseed.md R151, R158, 43_erasure.md R177). -/
def seekBy (s : State) : Answer := complete { s with ctr := s.ctr + operandPos s }

/-- `SEEK.SET` (42_seek_reseed.md R150). -/
def execSeekSet (s : State) : Answer := whenSeeded s (seekTo s)

/-- `SEEK.INC` (42_seek_reseed.md R151). -/
def execSeekInc (s : State) : Answer := whenSeeded s (seekBy s)

/-- The key length a legal seed length selects; no other length is legal (10_state.md R22, 42_seek_reseed.md R154). -/
def keyLenOfSeed (slen : Nat) : Option KeyLen :=
  if slen = 16 then some .bits128 else if slen = 32 then some .bits256 else none

/-- Every `RESEED` clears all 32 bytes of the staging register (42_seek_reseed.md R156). -/
def clearStaging (s : State) : State := { s with seedin := zeroSeed }

/-- `RESEED`: the length is validated before anything is replaced (42_seek_reseed.md R153, R154). -/
def execReseed (slen : Nat) (s : State) : Answer :=
  match keyLenOfSeed slen with
  | none => raise .invalidSeedLength (clearStaging s)
  | some k =>
    complete (clearStaging
      { replaceStream (toSeed (operandSeed slen s)) k (operandPos s) s with seeded := true })

end Sys2Proof.Machine
end

