-- ==== Sys2Proof/Machine/Erasure.lean ====
section
/-! DEFINITION. The erasure commands (43_erasure.md rules R170 to R181): a stream command, and for the two that give output a
replace of the seed from the stream's own keystream. -/

namespace Sys2Proof.Machine

/-- `E.GETBYTES` over a cipher `E`: one request of `n + 32` bytes, exact; the first `n` are the output and the other 32 the new
seed (43_erasure.md R172, R178). -/
def eGetBytes (E : Cipher) (s : State) : Answer :=
  whenErasable s <|
    let n := operandLen s
    let (b, s') := keystreamRequest E (n + Config.eraseLen) s
    completeWith (b.take n) (eraseWith (b.drop n) s')

/-- `E.GETBYTES` (43_erasure.md R172). -/
def execEGetBytes (s : State) : Answer := eGetBytes Config.cipherE s

/-- `E.GETINT` over a cipher `E`: the sampling of `GETINT`, and only when it succeeds a second request of 32 bytes at the
advanced counter, which become the new seed (43_erasure.md R174, R175). -/
def eGetInt (E : Cipher) (s : State) : Answer :=
  whenErasable s <|
    match sampleInt E s with
    | (.ok, s') =>
      let (b, s'') := keystreamRequest E Config.eraseLen s'
      complete (eraseWith b s'')
    | (c, s') => raise c s'

/-- `E.GETINT` (43_erasure.md R174). -/
def execEGetInt (s : State) : Answer := eGetInt Config.cipherE s

/-- `E.SEEK.SET`: no reseed (43_erasure.md R176). -/
def execESeekSet (s : State) : Answer := whenErasable s (seekTo s)

/-- `E.SEEK.INC`: no reseed (43_erasure.md R177). -/
def execESeekInc (s : State) : Answer := whenErasable s (seekBy s)

end Sys2Proof.Machine
end

