-- ==== Sys2Proof/Machine/Dispatch.lean ====
section
/-! DEFINITION. One arm for each command (30_encoding.md rule R86): the meaning it runs. -/

namespace Sys2Proof.Machine

/-- The effect of one decoded command on a state whose operand registers it samples (30_encoding.md R80, R90). -/
def exec (i : Instr) (s : State) : Host.Outcome State Fault Refusal :=
  match i with
  | .reseed slen => Sys2Proof.Machine.execReseed slen s
  | .seekSet => Sys2Proof.Machine.execSeekSet s
  | .seekInc => Sys2Proof.Machine.execSeekInc s
  | .getBytes => Sys2Proof.Machine.execGetBytes s
  | .getInt => Sys2Proof.Machine.execGetInt s
  | .eSeekSet => Sys2Proof.Machine.execESeekSet s
  | .eSeekInc => Sys2Proof.Machine.execESeekInc s
  | .eGetBytes => Sys2Proof.Machine.execEGetBytes s
  | .eGetInt => Sys2Proof.Machine.execEGetInt s

end Sys2Proof.Machine
end

