-- ==== Sys2Proof/Machine/RegFile.lean ====
section
/-! DEFINITION. The host register file (20_memory.md rules R51 to R55): which register an access meets, what a read returns and
consumes, what a write stores, and which accesses the host must not make while `BUSY = 1` (70_reset_and_hazards.md R226). -/

namespace Sys2Proof.Machine

/-- The register at a byte offset of the 128-byte file; none where the offset is not a multiple of 4 or lies beyond `0x7F`
(20_memory.md R51, R52). -/
def regAt (offset : Nat) : Option HostReg :=
  if offset % 4 ≠ 0 then none
  else
    match offset / 4 with
    | 0 => some .cmd
    | 1 => some .status
    | 2 => some .len
    | 3 => some .dout
    | 4 => some (.pos 0)
    | 5 => some (.pos 1)
    | 6 => some (.pos 2)
    | 7 => some (.pos 3)
    | 8 => some (.min 0)
    | 9 => some (.min 1)
    | 10 => some (.max 0)
    | 11 => some (.max 1)
    | 12 => some (.result 0)
    | 13 => some (.result 1)
    | 14 => some .reserved
    | 15 => some .reserved
    | 16 => some (.seedin 0)
    | 17 => some (.seedin 1)
    | 18 => some (.seedin 2)
    | 19 => some (.seedin 3)
    | 20 => some (.seedin 4)
    | 21 => some (.seedin 5)
    | 22 => some (.seedin 6)
    | 23 => some (.seedin 7)
    | 24 => some (.ctr 0)
    | 25 => some (.ctr 1)
    | 26 => some (.ctr 2)
    | 27 => some (.ctr 3)
    | 28 => some .cap
    | 29 => some .reserved
    | 30 => some .reserved
    | 31 => some .reserved
    | _ => none

/-- The register an access of `width` bytes meets: only aligned 32-bit accesses have a meaning (20_memory.md R52). -/
def accessedReg (offset width : Nat) : Option HostReg := if width = 4 then regAt offset else none

/-- The byte a read of `DOUT` returns, 0 when none waits (20_memory.md R54, R57). -/
def doutWord (s : State) : Word :=
  match s.out with
  | [] => 0
  | b :: _ => b.zeroExtend 32

/-- What a read of a register returns. Write-only registers and reserved offsets read 0; `SEED` is at no offset
(20_memory.md R51, R55, 10_state.md R21). -/
def readValue (r : HostReg) (s : State) : Word :=
  match r with
  | .cmd => 0
  | .status => statusWord s
  | .len => s.len
  | .dout => doutWord s
  | .pos k => getWord s.pos k.val
  | .min k => getWord s.minReg k.val
  | .max k => getWord s.maxReg k.val
  | .result k => getWord s.result k.val
  | .seedin _ => 0
  | .ctr k => getWord s.ctr k.val
  | .cap => capWord s
  | .reserved => 0

/-- What a read changes: only a read of `DOUT` does, it consumes the waiting byte (20_memory.md R54). -/
def afterRead (r : HostReg) (s : State) : State :=
  match r with
  | .dout => { s with out := s.out.tail }
  | .cmd | .status | .len | .pos _ | .min _ | .max _ | .result _ | .seedin _ | .ctr _ | .cap | .reserved => s

/-- What a write stores, `CMD` apart: the operand and staging registers take the word; read-only registers and reserved
offsets ignore it (20_memory.md R51, R55). -/
def writeReg (r : HostReg) (w : Word) (s : State) : State :=
  match r with
  | .len => { s with len := w }
  | .pos k => { s with pos := setWord s.pos k.val w }
  | .min k => { s with minReg := setWord s.minReg k.val w }
  | .max k => { s with maxReg := setWord s.maxReg k.val w }
  | .seedin k => { s with seedin := setSeedWord s.seedin k.val w }
  | .cmd | .status | .dout | .result _ | .ctr _ | .cap | .reserved => s

/-- The reads the host must not make while `BUSY = 1` (70_reset_and_hazards.md R226). -/
def readNeedsIdle : HostReg → Bool
  | .ctr _ | .result _ => true
  | .cmd | .status | .len | .dout | .pos _ | .min _ | .max _ | .seedin _ | .cap | .reserved => false

/-- The writes the host must not make while `BUSY = 1` (70_reset_and_hazards.md R225, R226). -/
def writeNeedsIdle : HostReg → Bool
  | .cmd | .len | .pos _ | .min _ | .max _ | .seedin _ => true
  | .status | .dout | .result _ | .ctr _ | .cap | .reserved => false

end Sys2Proof.Machine
end

