-- ==== Sys2Proof/Machine/Bus.lean ====
section
/-! DEFINITION. What one host action does to SSG: a register read, a register write, the launch of a command by a write of
`CMD` (30_encoding.md rules R80 and R88), or reset (70_reset_and_hazards.md rule R220). -/

namespace Sys2Proof.Machine

/-- The launch's own bookkeeping: the code so far becomes the last completed command's, and the port trace starts anew.
Log entries 5 and 7. -/
def beginCommand (s : State) : State := { s with errPrev := s.err, port := [] }

/-- A write of `CMD`: the word is decoded and the command runs to completion; a word that is no command completes at once
with `IllegalCommand` and changes nothing else (30_encoding.md R80, R88). -/
def launch (w : Word) (s : State) : Answer :=
  match decode w with
  | .ok i => exec i (beginCommand s)
  | .error _ => raise .illegalCommand (beginCommand s)

/-- A read of the register file: the value goes to the host (20_memory.md R51 to R54). -/
def hostRead (offset width : Nat) (s : State) : Answer :=
  match accessedReg offset width with
  | none => .refused .unsupportedAccess
  | some r =>
    if s.busy && readNeedsIdle r then .refused .accessWhileBusy
    else .next { afterRead r s with reads := s.reads ++ [readValue r s] }

/-- A write to the register file (20_memory.md R51 to R54). -/
def hostWrite (offset width : Nat) (w : Word) (s : State) : Answer :=
  match accessedReg offset width with
  | none => .refused .unsupportedAccess
  | some r =>
    if s.busy && writeNeedsIdle r then .refused .accessWhileBusy
    else
      match r with
      | .cmd => launch w s
      | .status | .len | .dout | .pos _ | .min _ | .max _ | .result _ | .seedin _ | .ctr _ | .cap | .reserved =>
        .next (writeReg r w s)

/-- Reset: all state takes its reset value, `CAP` is sampled anew and a command in progress is abandoned. The host's own
pending actions and the words it has read are not SSG's and stay (70_reset_and_hazards.md R220). Log entry 10. -/
def hostReset (caps : Caps) (s : State) : Answer :=
  .next { State.resetWith caps with host := s.host, reads := s.reads }

/-- One host action (00_scope.md R5). -/
def hostAct (a : HostAction) (s : State) : Answer :=
  match a with
  | .read offset width => hostRead offset width s
  | .write offset width w => hostWrite offset width w s
  | .reset caps => hostReset caps s

end Sys2Proof.Machine
end

