-- ==== Sys2Proof/Machine/Step.lean ====
section
/-! DEFINITION. One step of SSG: the host's next action takes effect, whole (20_memory.md rules R64 and R67). There is no
program counter and no fetch: a command is the word the host writes to `CMD` (10_state.md R34, 20_memory.md R66). -/

namespace Sys2Proof.Machine

/-- One step. With no host action pending nothing happens (60_exceptions.md R201). Log entry 3. -/
def step (s : State) : Host.Outcome State Fault Refusal :=
  match s.host with
  | [] => .next s
  | a :: rest => hostAct a { s with host := rest }

/-- The state whose next step runs the command word `w`: a write of it to `CMD` is the host's next action, and output bytes
not read yet count as read, since SSG takes no command before (70_reset_and_hazards.md R225). Log entry 11. -/
def State.withFetchWord (s : State) (nbits w : Nat) : State :=
  { s with out := [], host := .write 0 4 (BitVec.ofNat 32 (w % 2 ^ nbits)) :: s.host }

end Sys2Proof.Machine
end

