-- ==== Sys2Proof/Machine/Assembler.lean ====
section
/-! DEFINITION. The host's side as the spec writes it: the textual commands and the register accesses each stands for
(30_encoding.md rule R91), the pseudo-commands (R92), the component discipline (R93) and the boot sequence
(70_reset_and_hazards.md rule R224). -/

namespace Sys2Proof.Machine

/-- One command of the assembler syntax with all its operands (30_encoding.md R91). -/
inductive AsmLine where
  | reseed (seed : ByteString) (counter : Counter)
  | seekSet (position : Counter)
  | seekInc (position : Counter)
  | getBytes (n : Word)
  | getInt (min max : Native)
  | eSeekSet (position : Counter)
  | eSeekInc (position : Counter)
  | eGetBytes (n : Word)
  | eGetInt (min max : Native)
  deriving DecidableEq, Repr

/-- The command a line launches (30_encoding.md R91). -/
def AsmLine.instr : AsmLine → Instr
  | .reseed seed _ => .reseed seed.length
  | .seekSet _ => .seekSet
  | .seekInc _ => .seekInc
  | .getBytes _ => .getBytes
  | .getInt _ _ => .getInt
  | .eSeekSet _ => .eSeekSet
  | .eSeekInc _ => .eSeekInc
  | .eGetBytes _ => .eGetBytes
  | .eGetInt _ _ => .eGetInt

/-- An aligned 32-bit write. -/
def write32 (offset : Nat) (w : Word) : HostAction := .write offset 4 w

/-- An aligned 32-bit read. -/
def read32 (offset : Nat) : HostAction := .read offset 4

/-- The writes that load a register of `count` words, less significant word first (20_memory.md R53). -/
def loadWords {n : Nat} (base count : Nat) (v : BitVec n) : List HostAction :=
  (List.range count).map fun k => write32 (base + 4 * k) (getWord v k)

/-- Four bytes packed little-endian in a word (20_memory.md R53). -/
def packWord (b0 b1 b2 b3 : Byte) : Word :=
  b0.zeroExtend 32 ||| (b1.zeroExtend 32 <<< 8) ||| (b2.zeroExtend 32 <<< 16) ||| (b3.zeroExtend 32 <<< 24)

/-- Word `k` of a seed byte string, zero beyond its end (20_memory.md R53). -/
def seedWord (seed : ByteString) (k : Nat) : Word :=
  packWord (seed.getD (4 * k) 0) (seed.getD (4 * k + 1) 0) (seed.getD (4 * k + 2) 0) (seed.getD (4 * k + 3) 0)

/-- The writes that stage a seed: the words it reaches, eight at most (20_memory.md R51). Log entry 15. -/
def loadSeed (seed : ByteString) : List HostAction :=
  (List.range (min (ceilDiv seed.length 4) 8)).map fun k => write32 (0x40 + 4 * k) (seedWord seed k)

/-- The writes of `POS0..POS3`. -/
def loadPos (p : Counter) : List HostAction := loadWords 0x10 4 p

/-- The writes of `MIN_LO/HI` and `MAX_LO/HI`. -/
def loadRange (min max : Native) : List HostAction := loadWords 0x20 2 min ++ loadWords 0x28 2 max

/-- The register writes that load a line's operands (30_encoding.md R91). -/
def AsmLine.operandWrites : AsmLine → List HostAction
  | .reseed seed counter => loadSeed seed ++ loadPos counter
  | .seekSet p | .seekInc p | .eSeekSet p | .eSeekInc p => loadPos p
  | .getBytes n | .eGetBytes n => [write32 0x08 n]
  | .getInt min max | .eGetInt min max => loadRange min max

/-- A line stands for its operand writes, then one write of its command word to `CMD` (30_encoding.md R91). A seed of more than
63 bytes has no command word, so such a line stands for nothing (R81, R83). -/
def AsmLine.actions (l : AsmLine) : Option (List HostAction) :=
  if l.instr.wellFormed then some (l.operandWrites ++ [write32 0x00 (encode l.instr)]) else none

/-- The reads that drain an output of `n` bytes (70_reset_and_hazards.md R227). -/
def drainActions (n : Nat) : List HostAction := List.replicate n (read32 0x0C)

/-- A seek mode of the source's closed enumeration (30_encoding.md R82). -/
inductive SeekMode where
  | set
  | increase
  deriving DecidableEq, Repr

/-- A line as it is written: a command, or a pseudo-command (30_encoding.md R92). -/
inductive SourceLine where
  | core (l : AsmLine)
  /-- `RESEED <seed>`. -/
  | reseedDefault (seed : ByteString)
  /-- `NEW.STREAM <seed> [, <counter>]`. -/
  | newStream (seed : ByteString) (counter : Option Counter)
  /-- `NEW.ERASURE <seed> [, <counter>]`. -/
  | newErasure (seed : ByteString) (counter : Option Counter)
  /-- `SEEK <position>, SET` and `SEEK <position>, INCREASE`. -/
  | seek (position : Counter) (mode : SeekMode)
  deriving DecidableEq, Repr

/-- The command a line expands to; `NEW.ERASURE` takes a seed of exactly 32 bytes (30_encoding.md R92). -/
def SourceLine.expand : SourceLine → Option AsmLine
  | .core l => some l
  | .reseedDefault seed => some (.reseed seed 0)
  | .newStream seed counter => some (.reseed seed (counter.getD 0))
  | .newErasure seed counter => if seed.length = 32 then some (.reseed seed (counter.getD 0)) else none
  | .seek p .set => some (.seekSet p)
  | .seek p .increase => some (.seekInc p)

/-- The discipline of SS7's DeterministicStream: stream commands only (30_encoding.md R93). SSG does not enforce it. -/
def streamDiscipline (p : List AsmLine) : Bool := p.all fun l => !l.instr.isErasure

/-- The discipline of SS7's ErasureGenerator: a 32-byte `RESEED`, then erasure commands only (30_encoding.md R93, 43_erasure.md
R181). SSG does not enforce it. -/
def erasureDiscipline : List AsmLine → Bool
  | .reseed seed _ :: rest => decide (seed.length = 32) && rest.all fun l => l.instr.isErasure
  | _ => false

/-- The boot sequence after reset: stage the seed, write the starting counter, launch `RESEED`, read `STATUS`
(70_reset_and_hazards.md R224, steps 3 to 6; the `CAP` read of step 2 is optional). -/
def bootActions (seed : ByteString) (counter : Counter) : Option (List HostAction) :=
  (AsmLine.reseed seed counter).actions.map fun acts => acts ++ [read32 0x04]

/-- The platform's address of a register-file byte (20_memory.md R51). -/
def busAddress (offset : Nat) : Nat := Config.ssgBase + offset

/-! ## The text of a line (30_encoding.md R91) -/

/-- The value of a hexadecimal digit. -/
def hexDigit (c : Char) : Option Nat :=
  let x := c.toNat
  if 48 ≤ x ∧ x ≤ 57 then some (x - 48)
  else if 97 ≤ x ∧ x ≤ 102 then some (x - 87)
  else if 65 ≤ x ∧ x ≤ 70 then some (x - 55)
  else none

/-- Digits of a base after a value read so far. -/
def digitsFrom (base : Nat) : Nat → List Char → Option Nat
  | acc, [] => some acc
  | acc, c :: rest =>
    match hexDigit c with
    | some d => if d < base then digitsFrom base (base * acc + d) rest else none
    | none => none

/-- A number: decimal, or hexadecimal with `0x` (R91). -/
def parseNumber : List Char → Option Nat
  | [] => none
  | ['0', 'x'] => none
  | '0' :: 'x' :: ds => digitsFrom 16 0 ds
  | ds => digitsFrom 10 0 ds

/-- A number that fits an unsigned register of `n` bits. -/
def parseUnsigned (n : Nat) (cs : List Char) : Option (BitVec n) :=
  match parseNumber cs with
  | some v => if v < 2 ^ n then some (BitVec.ofNat n v) else none
  | none => none

/-- A range end, with an optional leading `-`, that fits the native signed integer (R91). -/
def parseSigned (cs : List Char) : Option Native :=
  match cs with
  | '-' :: ds =>
    match parseNumber ds with
    | some v => if v ≤ 2 ^ 63 then some (BitVec.ofInt 64 (-(v : Int))) else none
    | none => none
  | ds =>
    match parseNumber ds with
    | some v => if v < 2 ^ 63 then some (BitVec.ofNat 64 v) else none
    | none => none

/-- Bytes, two hexadecimal digits each, byte 0 first (R91). -/
def parseBytes : List Char → Option ByteString
  | [] => some []
  | [_] => none
  | a :: b :: rest =>
    match hexDigit a, hexDigit b, parseBytes rest with
    | some x, some y, some bs => some (BitVec.ofNat 8 (16 * x + y) :: bs)
    | _, _, _ => none

/-- A seed, `2*SLEN` hexadecimal digits with `SLEN` from 0 to 63 (R91, R81). -/
def parseSeed (cs : List Char) : Option ByteString := (parseBytes cs).filter fun seed => decide (seed.length ≤ 63)

/-- A finished token, if there is one; tokens are gathered last character first. -/
def flushToken (acc : List Char) : List (List Char) := if acc = [] then [] else [acc.reverse]

/-- The tokens of a line: blanks part them, a comma is a token, `;` starts a comment (R91). -/
def tokens : List Char → List Char → List (List Char)
  | acc, [] => flushToken acc
  | acc, c :: rest =>
    if c = ';' then flushToken acc
    else if c = ' ' ∨ c = '\t' then flushToken acc ++ tokens [] rest
    else if c = ',' then flushToken acc ++ [','] :: tokens [] rest
    else tokens (c :: acc) rest

/-- A command with one position operand. -/
def parsePosition (mk : Counter → AsmLine) (p : List Char) : Option SourceLine :=
  (parseUnsigned 128 p).map fun v => .core (mk v)

/-- A command with one byte count. -/
def parseCount (mk : Word → AsmLine) (n : List Char) : Option SourceLine :=
  (parseUnsigned 32 n).map fun v => .core (mk v)

/-- A command with a range. -/
def parseRange (mk : Native → Native → AsmLine) (lo hi : List Char) : Option SourceLine :=
  match parseSigned lo, parseSigned hi with
  | some x, some y => some (.core (mk x y))
  | _, _ => none

/-- A construction with a seed and a counter that may be left out. -/
def parseConstruction (mk : ByteString → Option Counter → SourceLine) (seed : List Char) (counter : Option (List Char)) :
    Option SourceLine :=
  match parseSeed seed, counter with
  | some s, none => some (mk s none)
  | some s, some c => (parseUnsigned 128 c).map fun v => mk s (some v)
  | none, _ => none

/-- `RESEED` with or without a counter. -/
def sourceReseed (seed : ByteString) : Option Counter → SourceLine
  | none => .reseedDefault seed
  | some c => .core (.reseed seed c)

/-- The operands after a construction's name. The seed of `SLEN = 0` has no digits and so leaves no token (R91). -/
def parseSeedOperands (mk : ByteString → Option Counter → SourceLine) : List (List Char) → Option SourceLine
  | [] => parseConstruction mk [] none
  | [[','], counter] => parseConstruction mk [] (some counter)
  | [seed] => parseConstruction mk seed none
  | [seed, [','], counter] => parseConstruction mk seed (some counter)
  | _ => none

/-- One line of text: `none` where it is no line of the syntax, `some none` where it is blank or a comment (R91, R92). -/
def parseLine (text : String) : Option (Option SourceLine) :=
  match tokens [] text.toList with
  | [] => some none
  | name :: args =>
    if name = "RESEED".toList then (parseSeedOperands sourceReseed args).map some
    else if name = "NEW.STREAM".toList then (parseSeedOperands .newStream args).map some
    else if name = "NEW.ERASURE".toList then (parseSeedOperands .newErasure args).map some
    else
      match args with
      | [x] =>
        if name = "SEEK.SET".toList then (parsePosition .seekSet x).map some
        else if name = "SEEK.INC".toList then (parsePosition .seekInc x).map some
        else if name = "GETBYTES".toList then (parseCount .getBytes x).map some
        else if name = "E.SEEK.SET".toList then (parsePosition .eSeekSet x).map some
        else if name = "E.SEEK.INC".toList then (parsePosition .eSeekInc x).map some
        else if name = "E.GETBYTES".toList then (parseCount .eGetBytes x).map some
        else none
      | [x, [','], y] =>
        if name = "GETINT".toList then (parseRange .getInt x y).map some
        else if name = "E.GETINT".toList then (parseRange .eGetInt x y).map some
        else if name = "SEEK".toList then
          if y = "SET".toList then ((parseUnsigned 128 x).map fun p => .seek p .set).map some
          else if y = "INCREASE".toList then ((parseUnsigned 128 x).map fun p => .seek p .increase).map some
          else none
        else none
      | _ => none

end Sys2Proof.Machine
end

