-- ==== Sys2Proof/Safety.lean ====
section
/-! DEFINITION. The terms claims use: the invariant of 10_state.md rule R26, the host's duties of 70_reset_and_hazards.md rules
R225 and R226 and 20_memory.md R52, what is secret and what is history, and the draws of the integer engine written from
the keystream's definition. -/

namespace Sys2Proof.Machine

/-! ## Safe runs -/

/-- What holds after reset and after every step (10_state.md R26; R25 and R40 for the time before the first seed;
60_exceptions.md R194; 20_memory.md R57). -/
structure State.Inv (s : State) : Prop where
  /-- R26 (d): while a seed is held the backend is the one its key length selects. -/
  backend_selected : s.seeded = true → s.bsel = backend s.cap s.keylen
  /-- R26 (e): the upper half of `SEED` is zero under a 128-bit key. -/
  short_seed_padded : s.keylen = .bits128 → ∀ j : Fin 32, 16 ≤ j.val → s.seed[j.val] = 0
  /-- R25, R40: until the first seed the stream state is at its reset value. -/
  unseeded_is_reset : s.seeded = false →
    s.seed = zeroSeed ∧ s.keylen = .bits128 ∧ s.bsel = .native ∧ s.ctr = 0 ∧ s.result = 0
  /-- 60_exceptions.md R198: bytes wait in `DOUT` only after a command that completed normally on a seeded SSG. -/
  output_after_ok : s.out ≠ [] → s.err = .ok ∧ s.seeded = true
  /-- 60_exceptions.md R194: `InvalidSeekMode` is never recorded. -/
  no_invalid_seek_mode : s.err ≠ .invalidSeekMode ∧ s.errPrev ≠ .invalidSeekMode

/-- The register accesses and resets that have a meaning: aligned 32-bit accesses inside the file (20_memory.md R52), none that
70_reset_and_hazards.md R225 and R226 forbid while `BUSY = 1`. -/
def disciplined (s : State) : HostAction → Bool
  | .read offset width =>
    match accessedReg offset width with
    | none => false
    | some r => !(s.busy && readNeedsIdle r)
  | .write offset width _ =>
    match accessedReg offset width with
    | none => false
    | some r => !(s.busy && writeNeedsIdle r)
  | .reset _ => true

/-- A step from here has a meaning: no host action is pending, or the next one is disciplined. -/
def stepDisciplined (s : State) : Bool :=
  match s.host with
  | [] => true
  | a :: _ => disciplined s a

/-- A run of `n` steps is safe: it ends in no refusal and no fault. -/
def SafeRun (n : Nat) (s : State) : Prop := ∃ t, Sys2Proof.core.run n s = .next t

/-! ## Secrets and history -/

/-- The state with other secrets: `SEED` and the staging register replaced (10_state.md R21, R31). -/
def State.withSecrets (seed seedin : SeedBytes) (s : State) : State := { s with seed := seed, seedin := seedin }

/-- The state without what no command may read: the completion codes, `RESULT`, the undelivered output, and the
model's traces (10_state.md R35, R39). -/
def State.withoutHistory (s : State) : State :=
  { s with err := .ok, errPrev := .ok, result := 0, out := [], host := [], reads := [], port := [] }

/-! ## The engine's draws, from the keystream's definition -/

/-- The port event of a keystream request for `n` bytes made at counter `c`; none for 0 bytes (20_memory.md R61). -/
def requestEvents (s : State) (c : Counter) (n : Nat) : List PortEvent :=
  match n with
  | 0 => []
  | n + 1 =>
    match s.bsel with
    | .native => [⟨s.keylen, .ctr (nonce c) (n + 1)⟩]
    | .emulated => [⟨s.keylen, .ecb (counterBlocks c (ceilDiv (n + 1) 16))⟩]

/-- The range analysis of the operands a state holds. -/
def operandSampling (s : State) : Sampling := rangeAnalysis Config.nativeWidth (operandMin s) (operandMax s)

/-- The candidate of draw `k`, counted from 0: draw `k` reads the block at counter `CTR + k` (41_getint.md R135). -/
def drawCandidate (E : Cipher) (s : State) (k : Nat) : Int :=
  candidateOf Config.nativeWidth (operandSampling s) (operandMin s)
    (drawValue (operandSampling s) (ks E s.key (s.ctr + BitVec.ofNat 128 k) (operandSampling s).nbytes))

/-- Draw `k` is accepted (41_getint.md R136). -/
def drawAccepted (E : Cipher) (s : State) (k : Nat) : Bool := accepts (operandMin s) (operandMax s) (drawCandidate E s k)

/-- The first accepted draw among the 128 the engine may make (41_getint.md R136). -/
def firstAccepted (E : Cipher) (s : State) : Option Nat := (List.range 128).find? (drawAccepted E s)

/-- The port events of the first `d` draws (20_memory.md R61). -/
def drawEvents (s : State) (d : Nat) : List PortEvent :=
  (List.range d).flatMap fun k => requestEvents s (s.ctr + BitVec.ofNat 128 k) (operandSampling s).nbytes

/-- The number of draws `GETINT` makes (41_getint.md R138). -/
def drawsMade (E : Cipher) (s : State) : Nat :=
  if operandMin s < operandMax s then
    match firstAccepted E s with
    | some k => k + 1
    | none => 128
  else 0

/-- A seeded state whose operands need no luck: the number of values in `[min, max]` is a power of two, so every draw is
accepted whatever the cipher (41_getint.md R141 (c), (d), (h), (j)). -/
def everyDrawAccepted (s : State) : Bool :=
  decide (operandMin s < operandMax s) &&
    decide (2 ^ bitlen (operandMax s - operandMin s).toNat = (operandMax s - operandMin s).toNat + 1)

/-! ## The increment, byte by byte -/

/-- Add one to the last byte and carry toward byte 0: the bytes, and the carry out of byte 0 (40_getbytes.md R101). -/
def addOneWithCarry : ByteString → ByteString × Bool
  | [] => ([], true)
  | x :: rest =>
    let (r, carry) := addOneWithCarry rest
    if carry then ((x + 1) :: r, x == 255) else (x :: r, false)

/-! ## Assembler lines -/

/-- The staging register after the words a seed reaches have been written (20_memory.md R53). -/
def stagedSeed (seed : ByteString) (old : SeedBytes) : SeedBytes :=
  Vector.ofFn fun j : Fin 32 => if j.val < 4 * ceilDiv seed.length 4 then seed.getD j.val 0 else old[j.val]

/-- The state with a line's operands in their registers (30_encoding.md R91). -/
def AsmLine.loaded (l : AsmLine) (s : State) : State :=
  match l with
  | .reseed seed counter => { s with seedin := stagedSeed seed s.seedin, pos := counter }
  | .seekSet p | .seekInc p | .eSeekSet p | .eSeekInc p => { s with pos := p }
  | .getBytes n | .eGetBytes n => { s with len := n }
  | .getInt min max | .eGetInt min max => { s with minReg := min, maxReg := max }

end Sys2Proof.Machine
end

