-- ==== Sys2Proof/Certificates/Slice0/Obligations.lean ====
section
/-! DEFINITION. The statements for the provers, from the numbered rules of spec/. A statement about an instruction's result is an
equation `exec i s = .next { s with … }`: it says that the instruction completes, the new values, and that every other part
of the state is unchanged. The form of the cipher-port events in `port`, one for each request and without its key, is the model's choice
(log entry 5). -/

open Sys2Proof Sys2Proof.Machine

/-! ## Command words -/

/-- 30_encoding.md R86, R81: every well-formed command is decoded from its own word, seed length and all. -/
def Obligations.DecodeInvertsEncode : Prop :=
  ∀ i : Instr, i.wellFormed = true → decode (encode i) = .ok i

/-- 30_encoding.md R87, R89: a word that decodes is the encoding of what it decodes to, so no bit of it is dropped. -/
def Obligations.EncodeInvertsDecode : Prop :=
  ∀ (w : Word) (i : Instr), decode w = .ok i → i.wellFormed = true ∧ encode i = w

/-- 30_encoding.md R86: the opcode map says which words are commands and which command each is, and its rows are disjoint. -/
def Obligations.OpcodeMapSelectsTheCommand : Prop :=
  (opcodeTable.map fun r => (r.mnemonic, r.pattern, r.mask)) =
    [("RESEED", 0x00000001, 0xFFFFC0FF), ("SEEK.SET", 0x00000002, 0xFFFFFFFF), ("SEEK.INC", 0x00000022, 0xFFFFFFFF),
      ("GETBYTES", 0x00000003, 0xFFFFFFFF), ("GETINT", 0x00000004, 0xFFFFFFFF), ("E.SEEK.SET", 0x00000012, 0xFFFFFFFF),
      ("E.SEEK.INC", 0x00000032, 0xFFFFFFFF), ("E.GETBYTES", 0x00000013, 0xFFFFFFFF), ("E.GETINT", 0x00000014, 0xFFFFFFFF)] ∧
  (∀ (w : Word) (i : Instr), decode w = .ok i ↔
    ∃ r ∈ opcodeTable, r.selects w = true ∧ r.mnemonic = i.mnemonic ∧
      ∀ slen : Nat, i = .reseed slen → slen = (w.extractLsb' 8 6).toNat) ∧
  (∀ w : Word, (∀ r ∈ opcodeTable, r.selects w = false) ↔ ∃ e, decode w = .error e) ∧
  (∀ w : Word, ∀ r ∈ opcodeTable, ∀ r' ∈ opcodeTable, r.selects w = true → r'.selects w = true → r = r') ∧
  decode 0x00001001 = .ok (.reseed 16) ∧ decode 0x00002001 = .ok (.reseed 32)

/-- 30_encoding.md R88: which words are illegal, and that a write of one completes with `IllegalCommand` and changes no state
of SSG but `STATUS.ERR`. Nothing is said of the model's own `errPrev` and `port`. -/
def Obligations.IllegalWordsOnlySetErr : Prop :=
  (∀ w : Word, (∃ e, decode w = .error e) ↔
    (w.extractLsb' 0 4 = 0 ∨ 5 ≤ (w.extractLsb' 0 4).toNat ∨
      w.extractLsb' 6 2 ≠ 0 ∨ w.extractLsb' 14 18 ≠ 0 ∨
      (w.extractLsb' 5 1 = 1 ∧ w.extractLsb' 0 4 ≠ 2) ∨
      (w.extractLsb' 8 6 ≠ 0 ∧ w.extractLsb' 0 4 ≠ 1) ∨
      (w.extractLsb' 0 4 = 1 ∧ w.extractLsb' 4 1 = 1))) ∧
  (∀ (s : State) (w : Word) (rest : List HostAction) (e : IllegalWord), s.busy = false →
    s.host = .write 0x00 4 w :: rest → decode w = .error e →
    ∃ t, step s = .next t ∧ t.statusErr = .illegalCommand ∧
      t = { s with host := rest, errPrev := t.errPrev, port := t.port, err := .illegalCommand })

/-- 95_test_vectors.md V-D1 to V-D23: words of the spec, decoded. -/
def Obligations.SpecWordsDecode : Prop :=
  decode 0x00000000 = .error .reservedOp ∧ decode 0x00001001 = .ok (.reseed 16) ∧
  decode 0x00002001 = .ok (.reseed 32) ∧ decode 0x00003F01 = .ok (.reseed 63) ∧
  decode 0x00002011 = .error .reseedVariant ∧ decode 0x00000002 = .ok .seekSet ∧
  decode 0x00000022 = .ok .seekInc ∧ decode 0x00000012 = .ok .eSeekSet ∧ decode 0x00000032 = .ok .eSeekInc ∧
  decode 0x00000102 = .error .slenNotZero ∧ decode 0x00000003 = .ok .getBytes ∧
  decode 0x00000013 = .ok .eGetBytes ∧ decode 0x00000023 = .error .modeNotZero ∧
  decode 0x00000004 = .ok .getInt ∧ decode 0x00000014 = .ok .eGetInt ∧ decode 0x00004001 = .error .reservedBits

/-! ## Reset -/

/-- 10_state.md R40: the reset value of every piece of state the spec gives SSG. -/
def Obligations.ResetGivesEveryRegisterItsValue : Prop :=
  State.reset = State.resetWith Config.capInputs ∧
  ∀ caps : Caps,
    let s := State.resetWith caps
    s.seeded = false ∧ (∀ j : Fin 32, s.seed[j.val] = 0) ∧ s.keylen = .bits128 ∧ s.ctr = 0 ∧ s.bsel = .native ∧
    s.len = 0 ∧ s.pos = 0 ∧ s.minReg = 0 ∧ s.maxReg = 0 ∧ (∀ j : Fin 32, s.seedin[j.val] = 0) ∧ s.result = 0 ∧
    statusWord s = 0 ∧ s.statusErr = .ok ∧ doutWord s = 0 ∧ s.out = [] ∧ s.cap = caps

/-- 10_state.md R26: the invariant holds after reset, whatever the capability inputs. -/
def Obligations.ResetMeetsTheInvariant : Prop :=
  State.reset.Inv ∧ ∀ caps : Caps, (State.resetWith caps).Inv

/-- 70_reset_and_hazards.md R220, R222: reset gives every piece of state its reset value and abandons a command in progress, so
that nothing depends on what SSG held before it; besides it only a `CMD` write moves the stream state, and only reset takes
`SEEDED` back to 0. -/
def Obligations.ResetIsTheOnlyWayBack : Prop :=
  (∀ (s : State) (caps : Caps) (rest : List HostAction), s.host = .reset caps :: rest →
    step s = .next { State.resetWith caps with host := rest, reads := s.reads }) ∧
  (∀ (s s' : State) (caps : Caps) (rest : List HostAction),
    s.host = .reset caps :: rest → s'.host = s.host → s'.reads = s.reads → step s = step s') ∧
  (∀ s t : State, step s = .next t →
    (∃ caps rest, s.host = .reset caps :: rest) ∨
    (∃ w rest, s.host = .write 0x00 4 w :: rest ∧ (s.seeded = true → t.seeded = true)) ∨
    (t.seeded = s.seeded ∧ t.seed = s.seed ∧ t.keylen = s.keylen ∧ t.ctr = s.ctr ∧ t.bsel = s.bsel ∧
      t.result = s.result ∧ t.err = s.err))

/-! ## One step -/

/-- 30_encoding.md R80: a write of a command word runs exactly the decoded command, on the operands the registers hold at that
moment. The code recorded so far is kept beside the new one and the port trace starts anew (log entries 5, 7). -/
def Obligations.StepRunsTheDecodedCommand : Prop :=
  (∀ (s : State) (w : Word) (i : Instr) (rest : List HostAction), s.busy = false →
    s.host = .write 0x00 4 w :: rest → decode w = .ok i →
    step s = exec i { s with host := rest, errPrev := s.err, port := [] }) ∧
  (∀ (s : State) (w : Word) (i : Instr), decode w = .ok i →
    step (s.withFetchWord 32 w.toNat) = exec i { s with out := [], errPrev := s.err, port := [] }) ∧
  (∀ s : State, s.host = [] → step s = .next s)

/-- 20_memory.md R52, 70_reset_and_hazards.md R225, R226: a step is refused exactly when the host makes an access the spec gives
no meaning, under the name of the duty it breaks; nothing else is refused and nothing faults. While `BUSY = 1` the writes
refused are, by offset, those of `CMD`, `LEN`, `POS`, `MIN`, `MAX` and `SEEDIN`, the reads those of `RESULT` and `CTR`, and no others (the names
are log entry 8, the accesses that stay allowed log entry 9). -/
def Obligations.OnlyUndisciplinedAccessesAreRefused : Prop :=
  ∀ s : State,
    (stepDisciplined s = true → ∃ t, step s = .next t) ∧
    (stepDisciplined s = false →
      step s = .refused .unsupportedAccess ∨ (s.busy = true ∧ step s = .refused .accessWhileBusy)) ∧
    (∀ offset width rest, s.host = .read offset width :: rest →
      (width ≠ 4 ∨ offset % 4 ≠ 0 ∨ 0x80 ≤ offset) → step s = .refused .unsupportedAccess) ∧
    (∀ offset width w rest, s.host = .write offset width w :: rest →
      (width ≠ 4 ∨ offset % 4 ≠ 0 ∨ 0x80 ≤ offset) → step s = .refused .unsupportedAccess) ∧
    (∀ offset w rest, s.busy = true → s.host = .write offset 4 w :: rest →
      offset ∈ [0x00, 0x08, 0x10, 0x14, 0x18, 0x1C, 0x20, 0x24, 0x28, 0x2C,
        0x40, 0x44, 0x48, 0x4C, 0x50, 0x54, 0x58, 0x5C] → step s = .refused .accessWhileBusy) ∧
    (∀ offset w rest, s.busy = true → s.host = .write offset 4 w :: rest →
      offset ∈ [0x04, 0x0C, 0x30, 0x34, 0x38, 0x3C, 0x60, 0x64, 0x68, 0x6C, 0x70, 0x74, 0x78, 0x7C] → ∃ t, step s = .next t) ∧
    (∀ offset rest, s.busy = true → s.host = .read offset 4 :: rest →
      offset ∈ [0x30, 0x34, 0x60, 0x64, 0x68, 0x6C] → step s = .refused .accessWhileBusy) ∧
    (∀ offset rest, s.busy = true → s.host = .read offset 4 :: rest →
      offset ∈ [0x00, 0x04, 0x08, 0x0C, 0x10, 0x14, 0x18, 0x1C, 0x20, 0x24, 0x28, 0x2C, 0x38, 0x3C,
        0x40, 0x44, 0x48, 0x4C, 0x50, 0x54, 0x58, 0x5C, 0x70, 0x74, 0x78, 0x7C] → ∃ t, step s = .next t)

/-- 00_scope.md R6: a command completes with `OK` or with an error code; it never hangs, and it touches neither the host's
pending actions nor what the host has read. -/
def Obligations.EveryCommandCompletes : Prop :=
  ∀ (i : Instr) (s : State), ∃ t, exec i s = .next t ∧ t.host = s.host ∧ t.reads = s.reads ∧
    t.err ∈ [CompletionCode.ok, .invalidSeedLength, .invalidRange, .generatorExhausted, .notSeeded, .illegalCommand]

/-- 10_state.md R26: every step keeps the invariant. -/
def Obligations.StepKeepsTheInvariant : Prop :=
  ∀ s t : State, s.Inv → step s = .next t → t.Inv

/-! ## The register file -/

/-- 10_state.md R33: the fields of `STATUS`, its reserved bits, what a read returns, and that a write is ignored. -/
def Obligations.StatusFieldsReadAsListed : Prop :=
  (∀ s : State,
    (statusWord s).getLsbD 0 = s.busy ∧ (s.busy = true ↔ s.out ≠ []) ∧
    (statusWord s).getLsbD 1 = s.seeded ∧
    ((statusWord s).getLsbD 2 = true ↔ s.keylen = .bits256) ∧
    ((statusWord s).getLsbD 3 = true ↔ s.bsel = .emulated) ∧
    (statusWord s).extractLsb' 4 4 = s.statusErr.number ∧
    (s.out = [] → s.statusErr = s.err) ∧ (s.out ≠ [] → s.statusErr = s.errPrev) ∧
    ((statusWord s).getLsbD 8 = true ↔ s.out ≠ []) ∧
    (statusWord s).extractLsb' 9 23 = 0) ∧
  (∀ (s : State) (rest : List HostAction), s.host = .read 0x04 4 :: rest →
    step s = .next { s with host := rest, reads := s.reads ++ [statusWord s] }) ∧
  (∀ (s : State) (w : Word) (rest : List HostAction), s.host = .write 0x04 4 w :: rest →
    step s = .next { s with host := rest })

/-- 10_state.md R37: `CAP` reads the two capability bits and is constant between resets. -/
def Obligations.CapIsConstantBetweenResets : Prop :=
  (∀ (s : State) (rest : List HostAction), s.host = .read 0x70 4 :: rest →
    ∃ w : Word, step s = .next { s with host := rest, reads := s.reads ++ [w] } ∧
      w.getLsbD 0 = s.cap.ctr128 ∧ w.getLsbD 1 = s.cap.ctr256 ∧ w.extractLsb' 2 30 = 0) ∧
  (∀ (s : State) (w : Word) (rest : List HostAction), s.host = .write 0x70 4 w :: rest →
    step s = .next { s with host := rest }) ∧
  (∀ s t : State, step s = .next t → t.cap ≠ s.cap → ∃ caps rest, s.host = .reset caps :: rest ∧ t.cap = caps)

/-- 10_state.md R36: the four words of `CTR`, less significant first, without side effect; writes are ignored. A read while
`BUSY = 1` is refused (70_reset_and_hazards.md R226); the refusal's name is the model's choice (log entry 8). -/
def Obligations.CounterReadsInFourWords : Prop :=
  (∀ (s : State) (rest : List HostAction), s.busy = false →
    s.host = .read 0x60 4 :: .read 0x64 4 :: .read 0x68 4 :: .read 0x6C 4 :: rest →
    ∃ w0 w1 w2 w3 : Word,
      Sys2Proof.core.run 4 s = .next { s with host := rest, reads := s.reads ++ [w0, w1, w2, w3] } ∧
      s.ctr.toNat = w3.toNat * 2 ^ 96 + w2.toNat * 2 ^ 64 + w1.toNat * 2 ^ 32 + w0.toNat) ∧
  (∀ (s : State) (k : Fin 4) (w : Word) (rest : List HostAction), s.host = .write (0x60 + 4 * k.val) 4 w :: rest →
    step s = .next { s with host := rest }) ∧
  (∀ (s : State) (k : Fin 4) (rest : List HostAction), s.busy = true → s.host = .read (0x60 + 4 * k.val) 4 :: rest →
    step s = .refused .accessWhileBusy)

/-- 20_memory.md R51 and R53 to R55, 10_state.md R28 to R30 and R32: an operand register reads back the word written to it and
the write changes nothing that another register reads as; the word at the lower offset holds the less significant bits of
`POS`, `MIN`, `MAX` and `RESULT`; read-only registers and reserved offsets ignore a write, busy or not; `CMD` and the reserved
offsets read 0; a read of an operand register or of `RESULT` changes nothing. -/
def Obligations.RegistersTakeOnlyTheirWrites : Prop :=
  (∀ (s : State) (offset : Nat) (w : Word),
    offset ∈ [0x08, 0x10, 0x14, 0x18, 0x1C, 0x20, 0x24, 0x28, 0x2C] → s.busy = false →
    ∃ (r : HostReg) (t : State), regAt offset = some r ∧ hostWrite offset 4 w s = .next t ∧
      readValue r t = w ∧ (∀ r' : HostReg, r' ≠ r → readValue r' t = readValue r' s) ∧
      t = { s with len := t.len, pos := t.pos, minReg := t.minReg, maxReg := t.maxReg } ∧
      hostRead offset 4 s = .next { s with reads := s.reads ++ [readValue r s] }) ∧
  (∀ (s : State) (offset : Nat) (w : Word),
    offset ∈ [0x04, 0x0C, 0x30, 0x34, 0x38, 0x3C, 0x60, 0x64, 0x68, 0x6C, 0x70, 0x74, 0x78, 0x7C] →
    hostWrite offset 4 w s = .next s) ∧
  (∀ (s : State) (offset : Nat), offset ∈ [0x00, 0x38, 0x3C, 0x74, 0x78, 0x7C] →
    hostRead offset 4 s = .next { s with reads := s.reads ++ [0] }) ∧
  (∀ s : State, s.busy = false → ∃ w0 w1 : Word,
    hostRead 0x30 4 s = .next { s with reads := s.reads ++ [w0] } ∧
    hostRead 0x34 4 s = .next { s with reads := s.reads ++ [w1] } ∧
    s.result.toNat = w1.toNat * 2 ^ 32 + w0.toNat) ∧
  (∀ (s : State) (w : Word), s.busy = false → hostWrite 0x08 4 w s = .next { s with len := w }) ∧
  (∀ (s : State) (k : Fin 4) (w : Word), s.busy = false → ∃ p : Counter,
    hostWrite (0x10 + 4 * k.val) 4 w s = .next { s with pos := p } ∧
    ∀ j : Fin 4, p.extractLsb' (32 * j.val) 32 = if j = k then w else s.pos.extractLsb' (32 * j.val) 32) ∧
  (∀ (s : State) (k : Fin 2) (w : Word), s.busy = false → ∃ v : Native,
    hostWrite (0x20 + 4 * k.val) 4 w s = .next { s with minReg := v } ∧
    ∀ j : Fin 2, v.extractLsb' (32 * j.val) 32 = if j = k then w else s.minReg.extractLsb' (32 * j.val) 32) ∧
  (∀ (s : State) (k : Fin 2) (w : Word), s.busy = false → ∃ v : Native,
    hostWrite (0x28 + 4 * k.val) 4 w s = .next { s with maxReg := v } ∧
    ∀ j : Fin 2, v.extractLsb' (32 * j.val) 32 = if j = k then w else s.maxReg.extractLsb' (32 * j.val) 32)

/-- 10_state.md R31: the staging register takes its bytes little-endian from the words written, reads as zero, and is all zero
after every `RESEED`, whatever its completion code; a `RESEED` of `SLEN` bytes takes its seed from it. -/
def Obligations.StagingRegisterPacksAndClears : Prop :=
  (∀ (s : State) (k : Fin 8) (w : Word), s.busy = false →
    ∃ v : SeedBytes, hostWrite (0x40 + 4 * k.val) 4 w s = .next { s with seedin := v } ∧
      ∀ j : Fin 32, v[j.val] =
        if j.val / 4 = k.val then w.extractLsb' (8 * (j.val % 4)) 8 else s.seedin[j.val]) ∧
  (∀ (s : State) (k : Fin 8), hostRead (0x40 + 4 * k.val) 4 s = .next { s with reads := s.reads ++ [0] }) ∧
  (∀ (s : State) (slen : Nat), ∃ t, exec (.reseed slen) s = .next t ∧ (∀ j : Fin 32, t.seedin[j.val] = 0) ∧
    (slen = 16 ∨ slen = 32 → t.seed.toList.take slen = s.seedin.toList.take slen))

/-- 20_memory.md R57, 70_reset_and_hazards.md R227: `DOUT` delivers the output bytes once each, in index order; further reads
return zeros and consume nothing; `STATUS.BUSY` falls with the last byte and not before. -/
def Obligations.OutputIsDeliveredOnceInOrder : Prop :=
  (∀ (s : State) (m : Nat) (rest : List HostAction), s.host = drainActions (s.out.length + m) ++ rest →
    Sys2Proof.core.run (s.out.length + m) s =
      .next { s with
        out := []
        host := rest
        reads := s.reads ++ s.out.map (fun b => b.zeroExtend 32) ++ List.replicate m 0 }) ∧
  (∀ (s t : State) (rest : List HostAction), s.host = .read 0x0C 4 :: rest → step s = .next t →
    (t.busy = true ↔ 2 ≤ s.out.length))

/-- 10_state.md R21, 43_erasure.md R173: no read of the register file shows a bit of `SEED` or of the staging register. -/
def Obligations.SecretsCannotBeRead : Prop :=
  ∀ (s : State) (seed seedin : SeedBytes) (offset width : Nat) (t : State),
    hostRead offset width s = .next t →
    hostRead offset width (s.withSecrets seed seedin) = .next (t.withSecrets seed seedin)

/-! ## Nonce, increment, keystream -/

/-- 40_getbytes.md R100: byte 0 of `NONCE(c)` is the most significant byte of `c`, byte 15 the least. -/
def Obligations.NonceIsBigEndian : Prop :=
  (∀ (c : Counter) (j : Fin 16), ((nonce c)[j.val]).toNat = c.toNat / 2 ^ (8 * (15 - j.val)) % 256) ∧
  nonce 0x0102 = #v[0, 0, 0, 0, 0, 0, 0, 0, 0, 0, 0, 0, 0, 0, 0x01, 0x02]

/-- 40_getbytes.md R101: `INC128` adds one to the last byte and carries toward byte 0 through all 16 bytes, dropping the last
carry; the blocks it chains are the nonces of the following counters. -/
def Obligations.IncrementCarriesThroughAllBytes : Prop :=
  (∀ b : Block, (inc128 b).toList = (addOneWithCarry b.toList).1) ∧
  (∀ c : Counter, inc128 (nonce c) = nonce (c + 1)) ∧
  (∀ (c : Counter) (k : Nat), nonceChain (nonce c) k = counterBlocks c k) ∧
  inc128 (Vector.replicate 16 0xFF) = Vector.replicate 16 0 ∧
  inc128 #v[0, 0, 0, 0, 0, 0, 0, 0, 0, 0, 0, 0, 0, 0, 0, 0xFF] = #v[0, 0, 0, 0, 0, 0, 0, 0, 0, 0, 0, 0, 0, 0, 1, 0] ∧
  inc128 #v[0, 0, 0, 0, 0, 0, 0, 0, 0xFF, 0xFF, 0xFF, 0xFF, 0xFF, 0xFF, 0xFF, 0xFF] =
    #v[0, 0, 0, 0, 0, 0, 0, 1, 0, 0, 0, 0, 0, 0, 0, 0]

/-- 40_getbytes.md R102: the keystream has the length asked for, and block `i` supplies its bytes `16i` to `16i + 15`. -/
def Obligations.KeystreamBytesComeBlockByBlock : Prop :=
  ∀ (E : Cipher) (K : Key) (c : Counter) (n : Nat),
    (ks E K c n).length = n ∧
    ∀ (i : Nat) (j : Fin 16), 16 * i + j.val < n →
      (ks E K c n)[16 * i + j.val]? =
        some ((E K (nonce (BitVec.ofNat 128 ((c.toNat + i) % 2 ^ 128))))[j.val])

/-- 20_memory.md R62: the two request kinds give the same bytes. -/
def Obligations.RequestKindsAgree : Prop :=
  ∀ (E : Cipher) (K : Key) (c : Counter) (n : Nat), 1 ≤ n →
    cipherCTR E K (be128 c) n = (cipherECB E K (counterBlocks c (ceilDiv n 16))).take n

/-- 40_getbytes.md R107: a keystream request returns the keystream at the counter and advances the counter by whole blocks,
rounding up, modulo `2^128`; 31 bytes advance it by 2. -/
def Obligations.RequestAdvancesByWholeBlocks : Prop :=
  (∀ (E : Cipher) (n : Nat) (s : State),
    (keystreamRequest E n s).1 = ks E s.key s.ctr n ∧
    (keystreamRequest E n s).2.ctr.toNat = (s.ctr.toNat + (n + 15) / 16) % 2 ^ 128 ∧
    (keystreamRequest E n s).2 =
      { s with ctr := (keystreamRequest E n s).2.ctr, port := s.port ++ requestEvents s s.ctr n }) ∧
  (∀ (E : Cipher) (n : Nat) (s : State),
    (n = 0 → (keystreamRequest E n s).2.ctr = s.ctr) ∧
    (1 ≤ n ∧ n ≤ 16 → (keystreamRequest E n s).2.ctr = s.ctr + 1) ∧
    (17 ≤ n ∧ n ≤ 32 → (keystreamRequest E n s).2.ctr = s.ctr + 2))

/-- 40_getbytes.md R106: with any backend and any capability inputs a command gives the same bytes, integer, counter, seed and
completion code; only `BSEL`, `CAP` and the cipher-port requests differ. -/
def Obligations.BackendIsUnobservable : Prop :=
  ∀ (i : Instr) (s : State) (b : Backend) (caps : Caps), ∃ t t' : State,
    exec i s = .next t ∧ exec i { s with bsel := b, cap := caps } = .next t' ∧
    t' = { t with bsel := t'.bsel, cap := caps, port := t'.port }

/-- 20_memory.md R61: the cipher-port requests of each command, and no others. -/
def Obligations.CommandsMakeTheseRequests : Prop :=
  ∀ (i : Instr) (s t : State), exec i s = .next t →
    (s.seeded = false ∨ (i.isErasure = true ∧ s.keylen = .bits128) → t.port = s.port) ∧
    (s.seeded = true → (i.isErasure = true → s.keylen = .bits256) →
      t.port = s.port ++
        match i with
        | .reseed _ | .seekSet | .seekInc | .eSeekSet | .eSeekInc => []
        | .getBytes => requestEvents s s.ctr s.len.toNat
        | .getInt => drawEvents s (drawsMade Config.cipherE s)
        | .eGetBytes => requestEvents s s.ctr (s.len.toNat + 32)
        | .eGetInt =>
          drawEvents s (drawsMade Config.cipherE s) ++
            if t.err = .ok then requestEvents s (s.ctr + BitVec.ofNat 128 (drawsMade Config.cipherE s)) 32 else [])

/-! ## GETBYTES -/

/-- 40_getbytes.md R108: `GETBYTES` returns `n` keystream bytes and advances the counter; it writes nothing else; unseeded it
fails with `NotSeeded`. -/
def Obligations.GetBytesReturnsKeystream : Prop :=
  encode .getBytes = 0x00000003 ∧
  (∀ s : State, s.seeded = true →
    exec .getBytes s = .next { s with
      ctr := s.ctr + BitVec.ofNat 128 (ceilDiv s.len.toNat 16)
      out := ks Config.cipherE s.key s.ctr s.len.toNat
      err := .ok
      port := s.port ++ requestEvents s s.ctr s.len.toNat }) ∧
  (∀ s : State, s.seeded = false → exec .getBytes s = .next { s with err := .notSeeded })

/-- 40_getbytes.md R109: split at a multiple of 16 bytes, two requests give what one gives, and end at the same counter; split
elsewhere they need not. -/
def Obligations.OutputIsContiguousAcrossCalls : Prop :=
  (∀ (s : State) (a b : Nat), s.seeded = true → a % 16 = 0 → a + b < 2 ^ 32 →
    ∃ t u v : State,
      exec .getBytes { s with len := BitVec.ofNat 32 a } = .next t ∧
      exec .getBytes { t with len := BitVec.ofNat 32 b, out := [] } = .next u ∧
      exec .getBytes { s with len := BitVec.ofNat 32 (a + b) } = .next v ∧
      t.out ++ u.out = v.out ∧ u.ctr = v.ctr) ∧
  (∃ (E : Cipher) (s t u v : State), s.seeded = true ∧
    getBytes E { s with len := 15 } = .next t ∧ getBytes E { t with len := 1, out := [] } = .next u ∧
    getBytes E { s with len := 16 } = .next v ∧ t.out ++ u.out ≠ v.out)

/-- 40_getbytes.md R110: `GETBYTES 0` returns the empty string, moves no counter and asks the cipher nothing; unseeded it still
fails. -/
def Obligations.GetBytesOfZeroLength : Prop :=
  (∀ s : State, s.seeded = true → s.len = 0 → exec .getBytes s = .next { s with out := [], err := .ok }) ∧
  (∀ s : State, s.seeded = false → s.len = 0 → exec .getBytes s = .next { s with err := .notSeeded })

/-- 40_getbytes.md R111: past the top of the counter space the blocks go on from `NONCE(0)` and the counter ends modulo
`2^128`. -/
def Obligations.CounterWrapsAtTheTop : Prop :=
  ∀ s : State, s.seeded = true → 2 ^ 128 ≤ s.ctr.toNat + ceilDiv s.len.toNat 16 →
    ∃ t : State, exec .getBytes s = .next t ∧
      t.ctr.toNat = s.ctr.toNat + ceilDiv s.len.toNat 16 - 2 ^ 128 ∧
      ∀ (i : Nat) (j : Fin 16), 2 ^ 128 - s.ctr.toNat ≤ i → 16 * i + j.val < s.len.toNat →
        t.out[16 * i + j.val]? =
          some ((Config.cipherE s.key (nonce (BitVec.ofNat 128 (i - (2 ^ 128 - s.ctr.toNat)))))[j.val])

/-! ## GETINT -/

/-- 41_getint.md R131: an empty range fails and a range of one value returns it; neither draws. -/
def Obligations.GetIntExitsEarly : Prop :=
  (∀ s : State, s.seeded = true → operandMin s > operandMax s →
    exec .getInt s = .next { s with err := .invalidRange }) ∧
  (∀ s : State, s.seeded = true → operandMin s = operandMax s →
    exec .getInt s = .next { s with result := s.minReg, err := .ok })

/-- 41_getint.md R133 and R134, for every native width of R143: the narrow case covers the range with the least number of bits,
the wide case takes the full native width. -/
def Obligations.RangeAnalysisIsMinimal : Prop :=
  ∀ (W : Nat) (min max : Int), 0 < W → W % 8 = 0 → -2 ^ (W - 1) ≤ min → min < max → max ≤ 2 ^ (W - 1) - 1 →
    (max - min ≤ 2 ^ (W - 1) - 1 →
      ∃ bits : Nat, 1 ≤ bits ∧ bits ≤ W - 1 ∧ 2 ^ (bits - 1) ≤ max - min ∧ max - min < 2 ^ bits ∧
        1 ≤ ceilDiv bits 8 ∧ ceilDiv bits 8 ≤ W / 8 ∧
        rangeAnalysis W min max = ⟨false, ceilDiv bits 8, 2 ^ bits - 1⟩ ∧
        ∀ v : Nat, candidateOf W (rangeAnalysis W min max) min v = min + v) ∧
    (2 ^ (W - 1) - 1 < max - min →
      min < 0 ∧ rangeAnalysis W min max = ⟨true, W / 8, 2 ^ W - 1⟩ ∧
        ∀ v : Nat, candidateOf W (rangeAnalysis W min max) min v = sintW W v)

/-- 41_getint.md R135, R139: a draw's value is its bytes read little-endian, `B[0]` least significant, under the mask; over the
values it can take, acceptance is one to one onto `[min, max]`, and more than half of those values are accepted. -/
def Obligations.SamplingIsUnbiased : Prop :=
  ∀ (W : Nat) (min max : Int), 0 < W → W % 8 = 0 → -2 ^ (W - 1) ≤ min → min < max → max ≤ 2 ^ (W - 1) - 1 →
    let p := rangeAnalysis W min max
    (∀ r : Int, min ≤ r → r ≤ max → ∃! v : Nat, v ≤ p.mask ∧ candidateOf W p min v = r) ∧
    (∀ v : Nat, accepts min max (candidateOf W p min v) = true ↔
      min ≤ candidateOf W p min v ∧ candidateOf W p min v ≤ max) ∧
    (∀ b : ByteString,
      drawValue p b = (∑ i ∈ Finset.range b.length, (b.getD i 0).toNat * 2 ^ (8 * i)) &&& p.mask ∧
      drawValue p b ≤ p.mask) ∧
    (p.mask : Int) + 1 < 2 * (max - min + 1)

/-- 41_getint.md R137: `GETINT`'s three tests in order; past them it takes the first accepted draw, the counter past it and
`RESULT` its candidate; when all 128 are rejected it fails with `GeneratorExhausted`, the counter past all of them and
`RESULT` unchanged. -/
def Obligations.GetIntTakesTheFirstAcceptedDraw : Prop :=
  encode .getInt = 0x00000004 ∧
  (∀ s : State, s.seeded = false → exec .getInt s = .next { s with err := .notSeeded }) ∧
  (∀ s : State, s.seeded = true → operandMin s > operandMax s → exec .getInt s = .next { s with err := .invalidRange }) ∧
  (∀ s : State, s.seeded = true → operandMin s = operandMax s →
    exec .getInt s = .next { s with result := BitVec.ofInt 64 (operandMin s), err := .ok }) ∧
  ∀ s : State, s.seeded = true → operandMin s < operandMax s →
    exec .getInt s =
      match firstAccepted Config.cipherE s with
      | some k => .next { s with
          ctr := s.ctr + BitVec.ofNat 128 (k + 1)
          result := BitVec.ofInt 64 (drawCandidate Config.cipherE s k)
          err := .ok
          port := s.port ++ drawEvents s (k + 1) }
      | none => .next { s with
          ctr := s.ctr + 128
          err := .generatorExhausted
          port := s.port ++ drawEvents s 128 }

/-- 41_getint.md R130: a result lies in the closed range, as a signed integer, both ends included. -/
def Obligations.GetIntResultIsInRange : Prop :=
  ∀ s : State,
    (-2 ^ 63 ≤ operandMin s ∧ operandMin s ≤ 2 ^ 63 - 1 ∧ -2 ^ 63 ≤ operandMax s ∧ operandMax s ≤ 2 ^ 63 - 1) ∧
    ∀ (i : Instr) (t : State), i = .getInt ∨ i = .eGetInt → exec i s = .next t → t.err = .ok →
      operandMin s ≤ sintW 64 t.result.toNat ∧ sintW 64 t.result.toNat ≤ operandMax s

/-- 41_getint.md R138: the counter moves by the number of draws, at most 128 and 0 only when `min = max` (or the range is
empty); it is 128 on `GeneratorExhausted`. -/
def Obligations.GetIntAdvancesOncePerDraw : Prop :=
  ∀ s t : State, s.seeded = true → exec .getInt s = .next t →
    ∃ d : Nat, d ≤ 128 ∧ t.ctr.toNat = (s.ctr.toNat + d) % 2 ^ 128 ∧ t.port = s.port ++ drawEvents s d ∧
      (t.err = .ok → (d = 0 ↔ operandMin s = operandMax s)) ∧
      (t.err = .invalidRange → d = 0) ∧ (t.err = .generatorExhausted → d = 128) ∧
      (t.err = .ok ∨ t.err = .invalidRange ∨ t.err = .generatorExhausted)

/-- 41_getint.md R141 (c), (d), (h), (j): when the number of values in the range is a power of two, the first draw is accepted
whatever the cipher, and `GETINT` and `E.GETINT` complete with `OK`. -/
def Obligations.PowerOfTwoRangesNeedOneDraw : Prop :=
  (∀ s : State, s.seeded = true → everyDrawAccepted s = true →
    exec .getInt s = .next { s with
      ctr := s.ctr + 1
      result := BitVec.ofInt 64 (drawCandidate Config.cipherE s 0)
      err := .ok
      port := s.port ++ drawEvents s 1 }) ∧
  (∀ s : State, s.seeded = true → s.keylen = .bits256 → everyDrawAccepted s = true →
    exec .eGetInt s = .next { s with
      ctr := 0
      seed := toSeed (ks Config.cipherE s.key (s.ctr + 1) 32)
      bsel := backend s.cap .bits256
      result := BitVec.ofInt 64 (drawCandidate Config.cipherE s 0)
      err := .ok
      port := s.port ++ drawEvents s 1 ++ requestEvents s (s.ctr + 1) 32 })

/-! ## Seeks and RESEED -/

/-- 42_seek_reseed.md R150: `SEEK.SET` sets the counter and nothing else. -/
def Obligations.SeekSetSetsTheCounter : Prop :=
  encode .seekSet = 0x00000002 ∧
  (∀ s : State, s.seeded = true → exec .seekSet s = .next { s with ctr := s.pos, err := .ok }) ∧
  (∀ s : State, s.seeded = false → exec .seekSet s = .next { s with err := .notSeeded })

/-- 42_seek_reseed.md R151: `SEEK.INC` adds to the counter modulo `2^128` and changes nothing else. -/
def Obligations.SeekIncAddsToTheCounter : Prop :=
  encode .seekInc = 0x00000022 ∧
  (∀ s : State, s.seeded = true → ∃ c : Counter, c.toNat = (s.ctr.toNat + s.pos.toNat) % 2 ^ 128 ∧
    exec .seekInc s = .next { s with ctr := c, err := .ok }) ∧
  (∀ s : State, s.seeded = false → exec .seekInc s = .next { s with err := .notSeeded })

/-- 42_seek_reseed.md R153, R154, R156: `RESEED` with 16 or 32 bytes installs seed, key length, counter and backend and clears the staging
register; it needs no seed before. Any other length clears the staging register, replaces
nothing and fails. -/
def Obligations.ReseedInstallsTheStagedSeed : Prop :=
  (∀ slen : Nat, slen ≤ 63 → encode (.reseed slen) = BitVec.ofNat 32 (1 + slen * 0x100)) ∧
  (∀ s : State, ∃ v : SeedBytes,
    (∀ j : Fin 32, v[j.val] = if j.val < 16 then s.seedin[j.val] else 0) ∧
    exec (.reseed 16) s = .next { s with
      seed := v, keylen := .bits128, ctr := s.pos, bsel := backend s.cap .bits128, seeded := true,
      seedin := Vector.replicate 32 0, err := .ok }) ∧
  (∀ s : State,
    exec (.reseed 32) s = .next { s with
      seed := s.seedin, keylen := .bits256, ctr := s.pos, bsel := backend s.cap .bits256, seeded := true,
      seedin := Vector.replicate 32 0, err := .ok }) ∧
  (∀ (s : State) (slen : Nat), slen ≠ 16 → slen ≠ 32 →
    exec (.reseed slen) s = .next { s with seedin := Vector.replicate 32 0, err := .invalidSeedLength })

/-- 42_seek_reseed.md R155: the backend is chosen from key length and capability, whenever `SEED` is written and at no other
time. -/
def Obligations.BackendFollowsKeyLengthAndCapability : Prop :=
  (∀ caps : Caps,
    (backend caps .bits128 = .native ↔ caps.ctr128 = true) ∧ (backend caps .bits256 = .native ↔ caps.ctr256 = true)) ∧
  (∀ (i : Instr) (s t : State), exec i s = .next t →
    if (i.isReseed = true ∨ i = .eGetBytes ∨ i = .eGetInt) ∧ t.err = .ok then t.bsel = backend s.cap t.keylen
    else t.bsel = s.bsel ∧ t.seed = s.seed ∧ t.keylen = s.keylen) ∧
  (∀ s t : State, step s = .next t → (s.seeded = true → s.bsel = backend s.cap s.keylen) →
    t.seeded = true → t.bsel = backend t.cap t.keylen)

/-- 42_seek_reseed.md R159: what a `RESEED` leaves of the stream depends on the seed and counter it installs (and on the capability
inputs) and on nothing before it: two states that agree on these end alike, but for the operands of later commands, the
last result and the model's own records. -/
def Obligations.ReseedForgetsTheOldStream : Prop :=
  ∀ (s s' : State) (slen : Nat), slen = 16 ∨ slen = 32 →
    s'.seedin.toList.take slen = s.seedin.toList.take slen → s'.pos = s.pos → s'.cap = s.cap →
    ∃ t : State, exec (.reseed slen) s = .next t ∧
      exec (.reseed slen) s' = .next { t with
        len := s'.len, minReg := s'.minReg, maxReg := s'.maxReg, result := s'.result, errPrev := s'.errPrev,
        out := s'.out, host := s'.host, reads := s'.reads, port := s'.port }

/-! ## Erasure commands -/

/-- 43_erasure.md R171: the two tests of every erasure command, in order, and that a failed test changes nothing. -/
def Obligations.ErasureNeedsASeedOf32Bytes : Prop :=
  ∀ (i : Instr) (s : State), i.isErasure = true →
    (s.seeded = false → exec i s = .next { s with err := .notSeeded }) ∧
    (s.seeded = true → s.keylen ≠ .bits256 → exec i s = .next { s with err := .illegalCommand })

/-- 43_erasure.md R172: `E.GETBYTES` makes one request of `n + 32` bytes, returns the first `n` and takes the other 32 for the
seed, with the counter at 0. -/
def Obligations.ErasingGetBytesReplacesTheSeed : Prop :=
  encode .eGetBytes = 0x00000013 ∧
  (∀ s : State, s.seeded = true → s.keylen = .bits256 → ∃ v : SeedBytes,
    v.toList = (ks Config.cipherE s.key s.ctr (s.len.toNat + 32)).drop s.len.toNat ∧
    exec .eGetBytes s = .next { s with
      out := (ks Config.cipherE s.key s.ctr (s.len.toNat + 32)).take s.len.toNat
      seed := v
      keylen := .bits256
      ctr := 0
      bsel := backend s.cap .bits256
      err := .ok
      port := s.port ++ requestEvents s s.ctr (s.len.toNat + 32) }) ∧
  (∀ s : State, s.seeded = false → exec .eGetBytes s = .next { s with err := .notSeeded }) ∧
  (∀ s : State, s.seeded = true → s.keylen ≠ .bits256 → exec .eGetBytes s = .next { s with err := .illegalCommand })

/-- 43_erasure.md R178: `E.GETBYTES 0` still reseeds; `n + 32` never wraps; the counter ends at 0 whatever it was; the number of
blocks is `n/16 + 2` for a multiple of 16 and `n div 16 + 3` otherwise. That the blocks of a `CipherECB` request are one event
is the model's choice (log entry 5). -/
def Obligations.ErasingGetBytesCornerCases : Prop :=
  (∀ s : State, s.seeded = true → s.keylen = .bits256 → s.len = 0 → ∃ t : State, exec .eGetBytes s = .next t ∧
    t.out = [] ∧ t.seed.toList = ks Config.cipherE s.key s.ctr 32 ∧ t.port.length = s.port.length + 1) ∧
  (∀ s : State, s.seeded = true → s.keylen = .bits256 → ∃ t : State, exec .eGetBytes s = .next t ∧
    t.ctr = 0 ∧ t.out.length = s.len.toNat ∧
    (s.bsel = .native →
      t.port = s.port ++ [⟨.bits256, .ctr (nonce s.ctr) (s.len.toNat + 32)⟩]) ∧
    (s.bsel = .emulated →
      t.port = s.port ++ [⟨.bits256, .ecb (counterBlocks s.ctr
        (if s.len.toNat % 16 = 0 then s.len.toNat / 16 + 2 else s.len.toNat / 16 + 3))⟩]))

/-- 43_erasure.md R174: `E.GETINT` samples as `GETINT` does; on success it draws 32 bytes at the advanced counter for the
seed and zeroes the counter; on an error it stops where `GETINT` stops and reseeds nothing. With `min = max` nothing is drawn
and the reseed still happens, from the blocks at the counter it found. -/
def Obligations.ErasingGetIntSamplesThenReseeds : Prop :=
  encode .eGetInt = 0x00000014 ∧
  (∀ s : State, s.seeded = true → s.keylen = .bits256 → ∃ t : State, exec .getInt s = .next t ∧
    (t.err = .ok → ∃ v : SeedBytes, v.toList = ks Config.cipherE s.key t.ctr 32 ∧
      exec .eGetInt s = .next { t with
        seed := v
        keylen := .bits256
        ctr := 0
        bsel := backend s.cap .bits256
        port := t.port ++ requestEvents s t.ctr 32 }) ∧
    (t.err ≠ .ok → exec .eGetInt s = .next t)) ∧
  (∀ s : State, s.seeded = true → s.keylen = .bits256 → operandMin s = operandMax s →
    exec .eGetInt s = .next { s with
      result := s.minReg
      seed := toSeed (ks Config.cipherE s.key s.ctr 32)
      ctr := 0
      bsel := backend s.cap .bits256
      err := .ok
      port := s.port ++ requestEvents s s.ctr 32 }) ∧
  (∀ s : State, s.seeded = false → exec .eGetInt s = .next { s with err := .notSeeded }) ∧
  (∀ s : State, s.seeded = true → s.keylen ≠ .bits256 → exec .eGetInt s = .next { s with err := .illegalCommand })

/-- 43_erasure.md R176: `E.SEEK.SET` sets the counter, with the tests of R171 and no reseed. -/
def Obligations.ErasingSeekSetOnlySetsTheCounter : Prop :=
  encode .eSeekSet = 0x00000012 ∧
  (∀ s : State, s.seeded = true → s.keylen = .bits256 →
    exec .eSeekSet s = .next { s with ctr := s.pos, err := .ok }) ∧
  (∀ s : State, s.seeded = false → exec .eSeekSet s = .next { s with err := .notSeeded }) ∧
  (∀ s : State, s.seeded = true → s.keylen ≠ .bits256 → exec .eSeekSet s = .next { s with err := .illegalCommand })

/-- 43_erasure.md R177: `E.SEEK.INC` adds to the counter modulo `2^128`, with the tests of R171 and no reseed. -/
def Obligations.ErasingSeekIncOnlyAddsToTheCounter : Prop :=
  encode .eSeekInc = 0x00000032 ∧
  (∀ s : State, s.seeded = true → s.keylen = .bits256 →
    ∃ c : Counter, c.toNat = (s.ctr.toNat + s.pos.toNat) % 2 ^ 128 ∧
      exec .eSeekInc s = .next { s with ctr := c, err := .ok }) ∧
  (∀ s : State, s.seeded = false → exec .eSeekInc s = .next { s with err := .notSeeded }) ∧
  (∀ s : State, s.seeded = true → s.keylen ≠ .bits256 → exec .eSeekInc s = .next { s with err := .illegalCommand })

/-- 43_erasure.md R180: after an erasing output command the key is 256 bits, the counter 0, and the seed a function of the
previous seed, counter and operands only. -/
def Obligations.ErasureResetsCounterAndDependsOnNothingElse : Prop :=
  ∀ (i : Instr) (s s' t t' : State), i = .eGetBytes ∨ i = .eGetInt →
    exec i s = .next t → exec i s' = .next t' → t.err = .ok → t'.err = .ok →
    t.keylen = .bits256 ∧ t.ctr = 0 ∧
    (s'.seed = s.seed → s'.ctr = s.ctr → s'.len = s.len → s'.minReg = s.minReg → s'.maxReg = s.maxReg →
      t'.seed = t.seed)

/-- 43_erasure.md R173: the reseed material goes to `SEED` and nowhere else: two ciphers that give the caller the same output
leave states that differ in `SEED` alone. -/
def Obligations.ErasureMaterialReachesOnlyTheSeed : Prop :=
  (∀ (E E' : Cipher) (s : State),
    (ks E s.key s.ctr (s.len.toNat + 32)).take s.len.toNat = (ks E' s.key s.ctr (s.len.toNat + 32)).take s.len.toNat →
    ∃ (t : State) (v : SeedBytes), eGetBytes E s = .next t ∧ eGetBytes E' s = .next { t with seed := v }) ∧
  (∀ (E E' : Cipher) (s : State), sampleInt E s = sampleInt E' s →
    ∃ (t : State) (v : SeedBytes), eGetInt E s = .next t ∧ eGetInt E' s = .next { t with seed := v })

/-! ## Errors and whole-machine rules -/

/-- 60_exceptions.md R195: `NotSeeded` is what every command but `RESEED` gives without a seed, with nothing changed, and is
given in no other case. -/
def Obligations.NothingButReseedRunsUnseeded : Prop :=
  (∀ (i : Instr) (s : State), s.seeded = false → i.isReseed = false → exec i s = .next { s with err := .notSeeded }) ∧
  (∀ (i : Instr) (s t : State), exec i s = .next t → t.err = .notSeeded → s.seeded = false ∧ i.isReseed = false)

/-- 60_exceptions.md R197: the order of the tests. -/
def Obligations.TestsAreMadeInOrder : Prop :=
  ∀ (s t : State) (w : Word) (rest : List HostAction), s.busy = false → s.host = .write 0x00 4 w :: rest →
    step s = .next t →
    match decode w with
    | .error _ => t.err = .illegalCommand
    | .ok i =>
      if i.isReseed = false ∧ s.seeded = false then t.err = .notSeeded
      else if i.isErasure = true ∧ s.keylen = .bits128 then t.err = .illegalCommand
      else
        match i with
        | .reseed slen => t.err = if slen = 16 ∨ slen = 32 then .ok else .invalidSeedLength
        | .getInt | .eGetInt =>
          if operandMin s > operandMax s then t.err = .invalidRange
          else if operandMin s = operandMax s then t.err = .ok
          else t.err = if firstAccepted Config.cipherE s = none then .generatorExhausted else .ok
        | .seekSet | .seekInc | .getBytes | .eSeekSet | .eSeekInc | .eGetBytes => t.err = .ok

/-- 60_exceptions.md R199: the state after each error, of a command and of a word that is none. -/
def Obligations.ErrorsLeaveTheStateAsListed : Prop :=
  (∀ (w : Word) (s : State) (e : IllegalWord), decode w = .error e → ∃ t, launch w s = .next t ∧
    t = { s with err := .illegalCommand, errPrev := t.errPrev, port := t.port }) ∧
  ∀ (i : Instr) (s t : State), exec i s = .next t → t.err ≠ .ok →
    t = { s with
      err := t.err
      seedin := if t.err = .invalidSeedLength then Vector.replicate 32 0 else s.seedin
      ctr := if t.err = .generatorExhausted then s.ctr + 128 else s.ctr
      port := if t.err = .generatorExhausted then t.port else s.port }

/-- 60_exceptions.md R194: `InvalidSeekMode`, code 4, is never raised: both values of `MODE` are legal. -/
def Obligations.InvalidSeekModeIsNeverRaised : Prop :=
  CompletionCode.invalidSeekMode.number = 4 ∧
  (∀ (i : Instr) (s t : State), exec i s = .next t → t.err ≠ .invalidSeekMode) ∧
  (∀ s t : State, step s = .next t → t.err = .invalidSeekMode → s.err = .invalidSeekMode) ∧
  (∀ w : Word, w.extractLsb' 0 4 = 2 → w.extractLsb' 6 2 = 0 → w.extractLsb' 8 24 = 0 →
    decode w = .ok (if w.extractLsb' 4 1 = 0 then (if w.extractLsb' 5 1 = 0 then .seekSet else .seekInc)
      else (if w.extractLsb' 5 1 = 0 then .eSeekSet else .eSeekInc)))

/-- 10_state.md R35: no command reads the completion code of an earlier one. -/
def Obligations.CommandsIgnoreEarlierCodes : Prop :=
  ∀ (i : Instr) (s : State) (e e' : CompletionCode), ∃ t : State,
    exec i s = .next t ∧ exec i { s with err := e, errPrev := e' } = .next { t with errPrev := e' }

/-- 10_state.md R39, R20: what a command does is a function of the stream state, the operands and the capability inputs only:
states that agree on those, whatever their codes, results, undelivered output and traces, end in agreement. -/
def Obligations.NoHiddenStateMatters : Prop :=
  ∀ (i : Instr) (s s' : State), s.withoutHistory = s'.withoutHistory → ∃ t t' : State,
    exec i s = .next t ∧ exec i s' = .next t' ∧ t.err = t'.err ∧
    t.withoutHistory = t'.withoutHistory ∧
    (t.err = .ok → i = .getBytes ∨ i = .eGetBytes → t.out = t'.out) ∧
    (t.err = .ok → i = .getInt ∨ i = .eGetInt → t.result = t'.result)

/-- 92_eei_decisions.md D25, 10_state.md R21, R22, R24, R25, R28 to R32, R37, 42_seek_reseed.md R155: the frame of every
command at once: which registers a command may write, and that no command writes an operand register. -/
def Obligations.CommandsWriteOnlyTheirRegisters : Prop :=
  ∀ (i : Instr) (s t : State), exec i s = .next t →
    t.len = s.len ∧ t.pos = s.pos ∧ t.minReg = s.minReg ∧ t.maxReg = s.maxReg ∧ t.cap = s.cap ∧
    t.errPrev = s.errPrev ∧ t.host = s.host ∧ t.reads = s.reads ∧
    (t.seedin ≠ s.seedin → i.isReseed = true) ∧
    (t.seeded ≠ s.seeded → i.isReseed = true ∧ t.err = .ok) ∧
    (t.result ≠ s.result → (i = .getInt ∨ i = .eGetInt) ∧ t.err = .ok) ∧
    (t.out ≠ s.out → (i = .getBytes ∨ i = .eGetBytes) ∧ t.err = .ok) ∧
    (t.seed ≠ s.seed ∨ t.keylen ≠ s.keylen ∨ t.bsel ≠ s.bsel →
      (i.isReseed = true ∨ i = .eGetBytes ∨ i = .eGetInt) ∧ t.err = .ok)

/-- 10_state.md R21: over one step, `SEED` is written only by a reset, a `RESEED` of a legal length, or an erasing output
command. -/
def Obligations.SeedIsWrittenOnlyByReplace : Prop :=
  ∀ s t : State, step s = .next t → t.seed ≠ s.seed →
    (∃ caps rest, s.host = .reset caps :: rest) ∨
    (∃ w rest i, s.host = .write 0x00 4 w :: rest ∧ decode w = .ok i ∧
      (i = .reseed 16 ∨ i = .reseed 32 ∨ (i = .eGetBytes ∨ i = .eGetInt) ∧ s.keylen = .bits256 ∧ s.seeded = true))

/-! ## The host's side -/

/-- 30_encoding.md R91: a line of the assembler syntax stands for its operand writes and one write of its own command's word, as
R86 gives it; only a `RESEED` whose seed is longer than 63 bytes has no such word (R81), and stands for nothing. -/
def Obligations.AssemblerLineLoadsThenLaunches : Prop :=
  (∀ l : AsmLine, l.actions = none ↔ ∃ seed counter, l = .reseed seed counter ∧ 63 < seed.length) ∧
  (∀ (l : AsmLine) (acts : List HostAction), l.actions = some acts → decode (encode l.instr) = .ok l.instr) ∧
  (∀ (l : AsmLine) (acts : List HostAction) (s : State) (rest : List HostAction), l.actions = some acts →
    s.busy = false → s.host = acts ++ rest →
    Sys2Proof.core.run acts.length s = launch (encode l.instr) { l.loaded s with host := rest })

/-- 70_reset_and_hazards.md R223, R224: the boot sequence on an SSG just reset ends with the seed installed, `STATUS` read with
`ERR = 0` and `SEEDED = 1`. -/
def Obligations.BootSequenceSeedsTheBlock : Prop :=
  ∀ (caps : Caps) (seed : ByteString) (c : Counter), seed.length = 16 ∨ seed.length = 32 →
    ∃ (acts : List HostAction) (t : State) (status : Word), bootActions seed c = some acts ∧
      Sys2Proof.core.run acts.length { State.resetWith caps with host := acts } = .next t ∧
      t.reads = [status] ∧ status.getLsbD 1 = true ∧ status.extractLsb' 4 4 = 0 ∧
      t.seeded = true ∧ t.seed.toList.take seed.length = seed ∧ t.key.bytes = seed ∧ t.ctr = c ∧
      (∀ j : Fin 32, t.seedin[j.val] = 0) ∧ t.host = []
end

