-- ==== Sys2Proof/Laws/Assembler.lean ====
section
/-! SUPPORT. What actions an assembler line and the boot sequence can stand for. -/

namespace Sys2Proof.Machine

/-- A line has actions exactly when its command is well formed, and then they are its operand writes and one write of its
command word. -/
theorem actions_eq_some {l : AsmLine} {acts : List HostAction} :
    l.actions = some acts ↔
      l.instr.wellFormed = true ∧ acts = l.operandWrites ++ [write32 0x00 (encode l.instr)] := by
  cases h : l.instr.wellFormed <;> simp [AsmLine.actions, h, eq_comm (b := acts)]

/-- The boot sequence exists exactly when its `RESEED` line has actions, and ends with a read of `STATUS`. -/
theorem bootActions_eq_some {seed : ByteString} {c : Counter} {acts : List HostAction} :
    bootActions seed c = some acts ↔
      ∃ l, (AsmLine.reseed seed c).actions = some l ∧ acts = l ++ [read32 0x04] := by
  simp [bootActions, eq_comm (b := acts)]

end Sys2Proof.Machine
end

