-- ==== Sys2Proof/Laws/Operands.lean ====
section
/-! SUPPORT. Laws of the bytes, integers and words of Machine/Operands.lean: the big-endian integer of a byte string, the
words of a wide register, the two's complement reading. -/

namespace Sys2Proof.Machine

theorem intBE_foldl (b : ByteString) (acc : Nat) :
    b.foldl (fun acc x => 256 * acc + x.toNat) acc = 256 ^ b.length * acc + intBE b := by
  induction b generalizing acc with
  | nil => simp [intBE]
  | cons x rest ih =>
    have h0 := ih x.toNat
    simp only [intBE, List.foldl_cons, List.length_cons, pow_succ] at *
    rw [ih, ih (256 * 0 + x.toNat)]
    ring

@[simp] theorem intBE_nil : intBE [] = 0 := rfl

/-- `int_be` reads the first byte as the most significant (00_scope.md R13). -/
theorem intBE_cons (x : Byte) (b : ByteString) : intBE (x :: b) = x.toNat * 256 ^ b.length + intBE b := by
  rw [intBE, List.foldl_cons, intBE_foldl]
  ring

theorem intBE_lt (b : ByteString) : intBE b < 256 ^ b.length := by
  induction b with
  | nil => simp
  | cons x rest ih =>
    rw [intBE_cons, List.length_cons, pow_succ]
    have := x.isLt
    nlinarith

/-- Byte strings of one length are told apart by their big-endian integers. -/
theorem intBE_inj {a b : ByteString} (hl : a.length = b.length) (h : intBE a = intBE b) : a = b := by
  induction a generalizing b with
  | nil => simpa using hl.symm
  | cons x rest ih =>
    obtain _ | ⟨y, rest'⟩ := b
    · simp at hl
    · simp only [List.length_cons, add_left_inj] at hl
      rw [intBE_cons, intBE_cons, hl] at h
      have h1 := intBE_lt rest
      have h2 := intBE_lt rest'
      rw [hl] at h1
      have hxy : x.toNat = y.toNat := by
        have e1 : (x.toNat * 256 ^ rest'.length + intBE rest) / 256 ^ rest'.length = x.toNat := by
          rw [mul_comm, Nat.mul_add_div (by positivity), Nat.div_eq_of_lt h1, add_zero]
        have e2 : (y.toNat * 256 ^ rest'.length + intBE rest') / 256 ^ rest'.length = y.toNat := by
          rw [mul_comm, Nat.mul_add_div (by positivity), Nat.div_eq_of_lt h2, add_zero]
        rw [← e1, h, e2]
      rw [hxy] at h
      rw [BitVec.eq_of_toNat_eq hxy, ih hl (by omega)]

/-- The last `k` bytes of a value, most significant first, are the value modulo `256^k`. -/
theorem intBE_ofFn (v k : Nat) :
    intBE (List.ofFn fun i : Fin k => BitVec.ofNat 8 (v / 256 ^ (k - 1 - i.val))) = v % 256 ^ k := by
  induction k with
  | zero => simp [Nat.mod_one]
  | succ k ih =>
    rw [List.ofFn_succ, intBE_cons, Nat.mod_pow_succ, ← ih]
    simp only [Fin.val_zero, Fin.val_succ, List.length_ofFn, BitVec.toNat_ofNat]
    have e : ∀ i : Fin k, k - (i.val + 1) = k - 1 - i.val := fun i => by omega
    simp only [Nat.sub_zero, Nat.add_sub_cancel, e]
    rw [Nat.add_comm, Nat.mul_comm]

/-- `int_be` inverts `be128` (00_scope.md R13). -/
theorem intBE_be128 (c : Counter) : intBE (be128 c).toList = c.toNat := by
  have h := intBE_ofFn c.toNat 16
  rw [Nat.mod_eq_of_lt (by simpa using c.isLt)] at h
  rw [← h, be128, Vector.toList_ofFn]
  congr 2
  funext i
  apply BitVec.eq_of_toNat_eq
  rw [BitVec.extractLsb'_toNat, Nat.shiftRight_eq_div_pow, BitVec.toNat_ofNat, pow_mul]
  norm_num

@[simp] theorem length_toList_block (b : Block) : b.toList.length = 16 := by simp

/-- `be128` inverts `int_be` on 16 bytes (00_scope.md R13). -/
theorem be128_ofNat_intBE (b : Block) : be128 (BitVec.ofNat 128 (intBE b.toList)) = b := by
  apply Vector.toList_inj.mp
  apply intBE_inj (by simp)
  rw [intBE_be128, BitVec.toNat_ofNat]
  exact Nat.mod_eq_of_lt (by have := intBE_lt b.toList; simpa using this)

/-- The word just written reads back (20_memory.md R53). -/
theorem getWord_setWord {n : Nat} (v : BitVec n) (k : Nat) (w : Word) (h : 32 * k + 32 ≤ n) :
    getWord (setWord v k w) k = w := by
  apply BitVec.eq_of_getLsbD_eq
  intro i hi
  have h1 : 32 * k + i < n := by omega
  simp only [getWord, setWord, BitVec.getLsbD_extractLsb', hi, decide_true, Bool.true_and, BitVec.getLsbD_or,
    BitVec.getLsbD_and, BitVec.getLsbD_not, BitVec.getLsbD_shiftLeft, BitVec.getLsbD_setWidth, BitVec.getLsbD_allOnes]
  have h2 : i < n := by omega
  simp [h1, h2, hi]

/-- The other words stay (20_memory.md R53). -/
theorem getWord_setWord_of_ne {n : Nat} (v : BitVec n) {j k : Nat} (w : Word) (h : j ≠ k) :
    getWord (setWord v k w) j = getWord v j := by
  apply BitVec.eq_of_getLsbD_eq
  intro i hi
  simp only [getWord, setWord, BitVec.getLsbD_extractLsb', hi, decide_true, Bool.true_and, BitVec.getLsbD_or,
    BitVec.getLsbD_and, BitVec.getLsbD_not, BitVec.getLsbD_shiftLeft, BitVec.getLsbD_setWidth, BitVec.getLsbD_allOnes]
  by_cases hn : 32 * j + i < n
  · by_cases hk : 32 * j + i < 32 * k
    · simp [hn, hk]
    · have h3 : ¬ (32 * j + i - 32 * k < 32) := by omega
      have h4 : w.getLsbD (32 * j + i - 32 * k) = false := BitVec.getLsbD_of_ge _ _ (by omega)
      simp [hn, h3, h4]
  · have h5 : v.getLsbD (32 * j + i) = false := BitVec.getLsbD_of_ge _ _ (by omega)
    simp [hn, h5]

/-- `ceil_div` by 8 or 16 as plain division. -/
theorem ceilDiv_block (n : Nat) : ceilDiv n 16 = (n + 15) / 16 := rfl

/-- `bitlen` is the least `b` with `r < 2^b` (00_scope.md R12). -/
theorem bitlen_spec {r : Nat} (h : 0 < r) : 0 < bitlen r ∧ 2 ^ (bitlen r - 1) ≤ r ∧ r < 2 ^ bitlen r := by
  have h0 : r ≠ 0 := by omega
  refine ⟨?_, ?_, ?_⟩ <;> simp only [bitlen, h0, if_false]
  · omega
  · simpa using Nat.log2_self_le h0
  · exact Nat.lt_log2_self

/-- A native operand is read as its signed value (41_getint.md R130). -/
theorem sintW_native (x : Native) : sintW 64 x.toNat = x.toInt := by
  rw [sintW, BitVec.toInt_eq_toNat_cond]
  norm_num
  split <;> split <;> first | rfl | omega

theorem length_toList_seed (v : SeedBytes) : v.toList.length = 32 := by simp

/-- A register made from 32 bytes holds exactly them. -/
theorem toSeed_toList {b : ByteString} (h : b.length = 32) : (toSeed b).toList = b := by
  apply List.ext_getElem
  · simp [h]
  · intro i h1 h2
    simp [toSeed, List.getD_eq_getElem?_getD, h2]

end Sys2Proof.Machine
end

