-- ==== Sys2Proof/Laws/State.lean ====
section
/-! SUPPORT. The fields of State after each named update: one lemma for each field and update, so that no later proof unfolds
a record update. -/

namespace Sys2Proof.Machine

/-! ## The advance transition (40_getbytes.md R107) -/

@[simp] theorem advance_seeded (c : Counter) (e : List PortEvent) (s : State) : (advance c e s).seeded = s.seeded := rfl
@[simp] theorem advance_seed (c : Counter) (e : List PortEvent) (s : State) : (advance c e s).seed = s.seed := rfl
@[simp] theorem advance_keylen (c : Counter) (e : List PortEvent) (s : State) : (advance c e s).keylen = s.keylen := rfl
@[simp] theorem advance_ctr (c : Counter) (e : List PortEvent) (s : State) : (advance c e s).ctr = c := rfl
@[simp] theorem advance_bsel (c : Counter) (e : List PortEvent) (s : State) : (advance c e s).bsel = s.bsel := rfl
@[simp] theorem advance_len (c : Counter) (e : List PortEvent) (s : State) : (advance c e s).len = s.len := rfl
@[simp] theorem advance_pos (c : Counter) (e : List PortEvent) (s : State) : (advance c e s).pos = s.pos := rfl
@[simp] theorem advance_minReg (c : Counter) (e : List PortEvent) (s : State) : (advance c e s).minReg = s.minReg := rfl
@[simp] theorem advance_maxReg (c : Counter) (e : List PortEvent) (s : State) : (advance c e s).maxReg = s.maxReg := rfl
@[simp] theorem advance_seedin (c : Counter) (e : List PortEvent) (s : State) : (advance c e s).seedin = s.seedin := rfl
@[simp] theorem advance_result (c : Counter) (e : List PortEvent) (s : State) : (advance c e s).result = s.result := rfl
@[simp] theorem advance_err (c : Counter) (e : List PortEvent) (s : State) : (advance c e s).err = s.err := rfl
@[simp] theorem advance_errPrev (c : Counter) (e : List PortEvent) (s : State) : (advance c e s).errPrev = s.errPrev := rfl
@[simp] theorem advance_out (c : Counter) (e : List PortEvent) (s : State) : (advance c e s).out = s.out := rfl
@[simp] theorem advance_cap (c : Counter) (e : List PortEvent) (s : State) : (advance c e s).cap = s.cap := rfl
@[simp] theorem advance_host (c : Counter) (e : List PortEvent) (s : State) : (advance c e s).host = s.host := rfl
@[simp] theorem advance_reads (c : Counter) (e : List PortEvent) (s : State) : (advance c e s).reads = s.reads := rfl
@[simp] theorem advance_port (c : Counter) (e : List PortEvent) (s : State) : (advance c e s).port = s.port ++ e := rfl

/-- Two advances are one. -/
@[simp] theorem advance_advance (c c' : Counter) (e e' : List PortEvent) (s : State) :
    advance c e (advance c' e' s) = advance c (e' ++ e) s := by simp [advance]

/-- An advance to where the counter stands, with no request, is none. -/
@[simp] theorem advance_self (s : State) : advance s.ctr [] s = s := by simp [advance]

/-! ## The replace transition (10_state.md R27) -/

@[simp] theorem replaceStream_seeded (v : SeedBytes) (k : KeyLen) (c : Counter) (s : State) : (replaceStream v k c s).seeded = s.seeded := rfl
@[simp] theorem replaceStream_seed (v : SeedBytes) (k : KeyLen) (c : Counter) (s : State) : (replaceStream v k c s).seed = v := rfl
@[simp] theorem replaceStream_keylen (v : SeedBytes) (k : KeyLen) (c : Counter) (s : State) : (replaceStream v k c s).keylen = k := rfl
@[simp] theorem replaceStream_ctr (v : SeedBytes) (k : KeyLen) (c : Counter) (s : State) : (replaceStream v k c s).ctr = c := rfl
@[simp] theorem replaceStream_bsel (v : SeedBytes) (k : KeyLen) (c : Counter) (s : State) : (replaceStream v k c s).bsel = backend s.cap k := rfl
@[simp] theorem replaceStream_len (v : SeedBytes) (k : KeyLen) (c : Counter) (s : State) : (replaceStream v k c s).len = s.len := rfl
@[simp] theorem replaceStream_pos (v : SeedBytes) (k : KeyLen) (c : Counter) (s : State) : (replaceStream v k c s).pos = s.pos := rfl
@[simp] theorem replaceStream_minReg (v : SeedBytes) (k : KeyLen) (c : Counter) (s : State) : (replaceStream v k c s).minReg = s.minReg := rfl
@[simp] theorem replaceStream_maxReg (v : SeedBytes) (k : KeyLen) (c : Counter) (s : State) : (replaceStream v k c s).maxReg = s.maxReg := rfl
@[simp] theorem replaceStream_seedin (v : SeedBytes) (k : KeyLen) (c : Counter) (s : State) : (replaceStream v k c s).seedin = s.seedin := rfl
@[simp] theorem replaceStream_result (v : SeedBytes) (k : KeyLen) (c : Counter) (s : State) : (replaceStream v k c s).result = s.result := rfl
@[simp] theorem replaceStream_err (v : SeedBytes) (k : KeyLen) (c : Counter) (s : State) : (replaceStream v k c s).err = s.err := rfl
@[simp] theorem replaceStream_errPrev (v : SeedBytes) (k : KeyLen) (c : Counter) (s : State) : (replaceStream v k c s).errPrev = s.errPrev := rfl
@[simp] theorem replaceStream_out (v : SeedBytes) (k : KeyLen) (c : Counter) (s : State) : (replaceStream v k c s).out = s.out := rfl
@[simp] theorem replaceStream_cap (v : SeedBytes) (k : KeyLen) (c : Counter) (s : State) : (replaceStream v k c s).cap = s.cap := rfl
@[simp] theorem replaceStream_host (v : SeedBytes) (k : KeyLen) (c : Counter) (s : State) : (replaceStream v k c s).host = s.host := rfl
@[simp] theorem replaceStream_reads (v : SeedBytes) (k : KeyLen) (c : Counter) (s : State) : (replaceStream v k c s).reads = s.reads := rfl
@[simp] theorem replaceStream_port (v : SeedBytes) (k : KeyLen) (c : Counter) (s : State) : (replaceStream v k c s).port = s.port := rfl

/-! ## The erasure commands' replace (43_erasure.md R172) -/

@[simp] theorem eraseWith_seeded (b : ByteString) (s : State) : (eraseWith b s).seeded = s.seeded := by dsimp only [eraseWith, replaceStream]
@[simp] theorem eraseWith_seed (b : ByteString) (s : State) : (eraseWith b s).seed = toSeed b := by dsimp only [eraseWith, replaceStream]
@[simp] theorem eraseWith_keylen (b : ByteString) (s : State) : (eraseWith b s).keylen = .bits256 := by dsimp only [eraseWith, replaceStream]
@[simp] theorem eraseWith_ctr (b : ByteString) (s : State) : (eraseWith b s).ctr = 0 := by dsimp only [eraseWith, replaceStream]
@[simp] theorem eraseWith_bsel (b : ByteString) (s : State) : (eraseWith b s).bsel = backend s.cap .bits256 := by dsimp only [eraseWith, replaceStream]
@[simp] theorem eraseWith_len (b : ByteString) (s : State) : (eraseWith b s).len = s.len := by dsimp only [eraseWith, replaceStream]
@[simp] theorem eraseWith_pos (b : ByteString) (s : State) : (eraseWith b s).pos = s.pos := by dsimp only [eraseWith, replaceStream]
@[simp] theorem eraseWith_minReg (b : ByteString) (s : State) : (eraseWith b s).minReg = s.minReg := by dsimp only [eraseWith, replaceStream]
@[simp] theorem eraseWith_maxReg (b : ByteString) (s : State) : (eraseWith b s).maxReg = s.maxReg := by dsimp only [eraseWith, replaceStream]
@[simp] theorem eraseWith_seedin (b : ByteString) (s : State) : (eraseWith b s).seedin = s.seedin := by dsimp only [eraseWith, replaceStream]
@[simp] theorem eraseWith_result (b : ByteString) (s : State) : (eraseWith b s).result = s.result := by dsimp only [eraseWith, replaceStream]
@[simp] theorem eraseWith_err (b : ByteString) (s : State) : (eraseWith b s).err = s.err := by dsimp only [eraseWith, replaceStream]
@[simp] theorem eraseWith_errPrev (b : ByteString) (s : State) : (eraseWith b s).errPrev = s.errPrev := by dsimp only [eraseWith, replaceStream]
@[simp] theorem eraseWith_out (b : ByteString) (s : State) : (eraseWith b s).out = s.out := by dsimp only [eraseWith, replaceStream]
@[simp] theorem eraseWith_cap (b : ByteString) (s : State) : (eraseWith b s).cap = s.cap := by dsimp only [eraseWith, replaceStream]
@[simp] theorem eraseWith_host (b : ByteString) (s : State) : (eraseWith b s).host = s.host := by dsimp only [eraseWith, replaceStream]
@[simp] theorem eraseWith_reads (b : ByteString) (s : State) : (eraseWith b s).reads = s.reads := by dsimp only [eraseWith, replaceStream]
@[simp] theorem eraseWith_port (b : ByteString) (s : State) : (eraseWith b s).port = s.port := by dsimp only [eraseWith, replaceStream]

/-! ## Clearing the staging register (42_seek_reseed.md R156) -/

@[simp] theorem clearStaging_seeded (s : State) : (clearStaging s).seeded = s.seeded := rfl
@[simp] theorem clearStaging_seed (s : State) : (clearStaging s).seed = s.seed := rfl
@[simp] theorem clearStaging_keylen (s : State) : (clearStaging s).keylen = s.keylen := rfl
@[simp] theorem clearStaging_ctr (s : State) : (clearStaging s).ctr = s.ctr := rfl
@[simp] theorem clearStaging_bsel (s : State) : (clearStaging s).bsel = s.bsel := rfl
@[simp] theorem clearStaging_len (s : State) : (clearStaging s).len = s.len := rfl
@[simp] theorem clearStaging_pos (s : State) : (clearStaging s).pos = s.pos := rfl
@[simp] theorem clearStaging_minReg (s : State) : (clearStaging s).minReg = s.minReg := rfl
@[simp] theorem clearStaging_maxReg (s : State) : (clearStaging s).maxReg = s.maxReg := rfl
@[simp] theorem clearStaging_seedin (s : State) : (clearStaging s).seedin = zeroSeed := rfl
@[simp] theorem clearStaging_result (s : State) : (clearStaging s).result = s.result := rfl
@[simp] theorem clearStaging_err (s : State) : (clearStaging s).err = s.err := rfl
@[simp] theorem clearStaging_errPrev (s : State) : (clearStaging s).errPrev = s.errPrev := rfl
@[simp] theorem clearStaging_out (s : State) : (clearStaging s).out = s.out := rfl
@[simp] theorem clearStaging_cap (s : State) : (clearStaging s).cap = s.cap := rfl
@[simp] theorem clearStaging_host (s : State) : (clearStaging s).host = s.host := rfl
@[simp] theorem clearStaging_reads (s : State) : (clearStaging s).reads = s.reads := rfl
@[simp] theorem clearStaging_port (s : State) : (clearStaging s).port = s.port := rfl

/-! ## Writing RESULT (41_getint.md R130) -/

@[simp] theorem writeResult_seeded (r : Int) (s : State) : (writeResult r s).seeded = s.seeded := rfl
@[simp] theorem writeResult_seed (r : Int) (s : State) : (writeResult r s).seed = s.seed := rfl
@[simp] theorem writeResult_keylen (r : Int) (s : State) : (writeResult r s).keylen = s.keylen := rfl
@[simp] theorem writeResult_ctr (r : Int) (s : State) : (writeResult r s).ctr = s.ctr := rfl
@[simp] theorem writeResult_bsel (r : Int) (s : State) : (writeResult r s).bsel = s.bsel := rfl
@[simp] theorem writeResult_len (r : Int) (s : State) : (writeResult r s).len = s.len := rfl
@[simp] theorem writeResult_pos (r : Int) (s : State) : (writeResult r s).pos = s.pos := rfl
@[simp] theorem writeResult_minReg (r : Int) (s : State) : (writeResult r s).minReg = s.minReg := rfl
@[simp] theorem writeResult_maxReg (r : Int) (s : State) : (writeResult r s).maxReg = s.maxReg := rfl
@[simp] theorem writeResult_seedin (r : Int) (s : State) : (writeResult r s).seedin = s.seedin := rfl
@[simp] theorem writeResult_result (r : Int) (s : State) : (writeResult r s).result = BitVec.ofInt 64 r := rfl
@[simp] theorem writeResult_err (r : Int) (s : State) : (writeResult r s).err = s.err := rfl
@[simp] theorem writeResult_errPrev (r : Int) (s : State) : (writeResult r s).errPrev = s.errPrev := rfl
@[simp] theorem writeResult_out (r : Int) (s : State) : (writeResult r s).out = s.out := rfl
@[simp] theorem writeResult_cap (r : Int) (s : State) : (writeResult r s).cap = s.cap := rfl
@[simp] theorem writeResult_host (r : Int) (s : State) : (writeResult r s).host = s.host := rfl
@[simp] theorem writeResult_reads (r : Int) (s : State) : (writeResult r s).reads = s.reads := rfl
@[simp] theorem writeResult_port (r : Int) (s : State) : (writeResult r s).port = s.port := rfl

/-! ## The launch's bookkeeping -/

@[simp] theorem beginCommand_seeded (s : State) : (beginCommand s).seeded = s.seeded := rfl
@[simp] theorem beginCommand_seed (s : State) : (beginCommand s).seed = s.seed := rfl
@[simp] theorem beginCommand_keylen (s : State) : (beginCommand s).keylen = s.keylen := rfl
@[simp] theorem beginCommand_ctr (s : State) : (beginCommand s).ctr = s.ctr := rfl
@[simp] theorem beginCommand_bsel (s : State) : (beginCommand s).bsel = s.bsel := rfl
@[simp] theorem beginCommand_len (s : State) : (beginCommand s).len = s.len := rfl
@[simp] theorem beginCommand_pos (s : State) : (beginCommand s).pos = s.pos := rfl
@[simp] theorem beginCommand_minReg (s : State) : (beginCommand s).minReg = s.minReg := rfl
@[simp] theorem beginCommand_maxReg (s : State) : (beginCommand s).maxReg = s.maxReg := rfl
@[simp] theorem beginCommand_seedin (s : State) : (beginCommand s).seedin = s.seedin := rfl
@[simp] theorem beginCommand_result (s : State) : (beginCommand s).result = s.result := rfl
@[simp] theorem beginCommand_err (s : State) : (beginCommand s).err = s.err := rfl
@[simp] theorem beginCommand_errPrev (s : State) : (beginCommand s).errPrev = s.err := rfl
@[simp] theorem beginCommand_out (s : State) : (beginCommand s).out = s.out := rfl
@[simp] theorem beginCommand_cap (s : State) : (beginCommand s).cap = s.cap := rfl
@[simp] theorem beginCommand_host (s : State) : (beginCommand s).host = s.host := rfl
@[simp] theorem beginCommand_reads (s : State) : (beginCommand s).reads = s.reads := rfl
@[simp] theorem beginCommand_port (s : State) : (beginCommand s).port = [] := rfl

/-! ## Reset (10_state.md R40) -/

@[simp] theorem resetWith_seeded (caps : Caps) : (State.resetWith caps).seeded = false := rfl
@[simp] theorem resetWith_seed (caps : Caps) : (State.resetWith caps).seed = zeroSeed := rfl
@[simp] theorem resetWith_keylen (caps : Caps) : (State.resetWith caps).keylen = .bits128 := rfl
@[simp] theorem resetWith_ctr (caps : Caps) : (State.resetWith caps).ctr = 0 := rfl
@[simp] theorem resetWith_bsel (caps : Caps) : (State.resetWith caps).bsel = .native := rfl
@[simp] theorem resetWith_len (caps : Caps) : (State.resetWith caps).len = 0 := rfl
@[simp] theorem resetWith_pos (caps : Caps) : (State.resetWith caps).pos = 0 := rfl
@[simp] theorem resetWith_minReg (caps : Caps) : (State.resetWith caps).minReg = 0 := rfl
@[simp] theorem resetWith_maxReg (caps : Caps) : (State.resetWith caps).maxReg = 0 := rfl
@[simp] theorem resetWith_seedin (caps : Caps) : (State.resetWith caps).seedin = zeroSeed := rfl
@[simp] theorem resetWith_result (caps : Caps) : (State.resetWith caps).result = 0 := rfl
@[simp] theorem resetWith_err (caps : Caps) : (State.resetWith caps).err = .ok := rfl
@[simp] theorem resetWith_errPrev (caps : Caps) : (State.resetWith caps).errPrev = .ok := rfl
@[simp] theorem resetWith_out (caps : Caps) : (State.resetWith caps).out = [] := rfl
@[simp] theorem resetWith_cap (caps : Caps) : (State.resetWith caps).cap = caps := rfl
@[simp] theorem resetWith_host (caps : Caps) : (State.resetWith caps).host = [] := rfl
@[simp] theorem resetWith_reads (caps : Caps) : (State.resetWith caps).reads = [] := rfl
@[simp] theorem resetWith_port (caps : Caps) : (State.resetWith caps).port = [] := rfl

/-! ## A register-file read (20_memory.md R54): only DOUT consumes -/

@[simp] theorem afterRead_seeded (r : HostReg) (s : State) : (afterRead r s).seeded = s.seeded := by cases r <;> rfl
@[simp] theorem afterRead_seed (r : HostReg) (s : State) : (afterRead r s).seed = s.seed := by cases r <;> rfl
@[simp] theorem afterRead_keylen (r : HostReg) (s : State) : (afterRead r s).keylen = s.keylen := by cases r <;> rfl
@[simp] theorem afterRead_ctr (r : HostReg) (s : State) : (afterRead r s).ctr = s.ctr := by cases r <;> rfl
@[simp] theorem afterRead_bsel (r : HostReg) (s : State) : (afterRead r s).bsel = s.bsel := by cases r <;> rfl
@[simp] theorem afterRead_len (r : HostReg) (s : State) : (afterRead r s).len = s.len := by cases r <;> rfl
@[simp] theorem afterRead_pos (r : HostReg) (s : State) : (afterRead r s).pos = s.pos := by cases r <;> rfl
@[simp] theorem afterRead_minReg (r : HostReg) (s : State) : (afterRead r s).minReg = s.minReg := by cases r <;> rfl
@[simp] theorem afterRead_maxReg (r : HostReg) (s : State) : (afterRead r s).maxReg = s.maxReg := by cases r <;> rfl
@[simp] theorem afterRead_seedin (r : HostReg) (s : State) : (afterRead r s).seedin = s.seedin := by cases r <;> rfl
@[simp] theorem afterRead_result (r : HostReg) (s : State) : (afterRead r s).result = s.result := by cases r <;> rfl
@[simp] theorem afterRead_err (r : HostReg) (s : State) : (afterRead r s).err = s.err := by cases r <;> rfl
@[simp] theorem afterRead_errPrev (r : HostReg) (s : State) : (afterRead r s).errPrev = s.errPrev := by cases r <;> rfl
@[simp] theorem afterRead_cap (r : HostReg) (s : State) : (afterRead r s).cap = s.cap := by cases r <;> rfl
@[simp] theorem afterRead_host (r : HostReg) (s : State) : (afterRead r s).host = s.host := by cases r <;> rfl
@[simp] theorem afterRead_reads (r : HostReg) (s : State) : (afterRead r s).reads = s.reads := by cases r <;> rfl
@[simp] theorem afterRead_port (r : HostReg) (s : State) : (afterRead r s).port = s.port := by cases r <;> rfl

/-! ## A register-file write (20_memory.md R51): only operand and staging registers take it -/

@[simp] theorem writeReg_seeded (r : HostReg) (w : Word) (s : State) : (writeReg r w s).seeded = s.seeded := by cases r <;> dsimp only [writeReg]
@[simp] theorem writeReg_seed (r : HostReg) (w : Word) (s : State) : (writeReg r w s).seed = s.seed := by cases r <;> dsimp only [writeReg]
@[simp] theorem writeReg_keylen (r : HostReg) (w : Word) (s : State) : (writeReg r w s).keylen = s.keylen := by cases r <;> dsimp only [writeReg]
@[simp] theorem writeReg_ctr (r : HostReg) (w : Word) (s : State) : (writeReg r w s).ctr = s.ctr := by cases r <;> dsimp only [writeReg]
@[simp] theorem writeReg_bsel (r : HostReg) (w : Word) (s : State) : (writeReg r w s).bsel = s.bsel := by cases r <;> dsimp only [writeReg]
@[simp] theorem writeReg_result (r : HostReg) (w : Word) (s : State) : (writeReg r w s).result = s.result := by cases r <;> dsimp only [writeReg]
@[simp] theorem writeReg_err (r : HostReg) (w : Word) (s : State) : (writeReg r w s).err = s.err := by cases r <;> dsimp only [writeReg]
@[simp] theorem writeReg_errPrev (r : HostReg) (w : Word) (s : State) : (writeReg r w s).errPrev = s.errPrev := by cases r <;> dsimp only [writeReg]
@[simp] theorem writeReg_out (r : HostReg) (w : Word) (s : State) : (writeReg r w s).out = s.out := by cases r <;> dsimp only [writeReg]
@[simp] theorem writeReg_cap (r : HostReg) (w : Word) (s : State) : (writeReg r w s).cap = s.cap := by cases r <;> dsimp only [writeReg]
@[simp] theorem writeReg_host (r : HostReg) (w : Word) (s : State) : (writeReg r w s).host = s.host := by cases r <;> dsimp only [writeReg]
@[simp] theorem writeReg_reads (r : HostReg) (w : Word) (s : State) : (writeReg r w s).reads = s.reads := by cases r <;> dsimp only [writeReg]
@[simp] theorem writeReg_port (r : HostReg) (w : Word) (s : State) : (writeReg r w s).port = s.port := by cases r <;> dsimp only [writeReg]

end Sys2Proof.Machine
end

