-- ==== Sys2Proof/Laws/Ops.lean ====
section
/-! SUPPORT. What each shared operation of Machine/Ops.lean and the integer engine can do, said once. -/

namespace Sys2Proof.Machine

/-! ## The tests before a command -/

theorem whenSeeded_of_seeded {s : State} {body : Answer} (h : s.seeded = true) : whenSeeded s body = body := by
  simp [whenSeeded, h]

theorem whenSeeded_of_unseeded {s : State} {body : Answer} (h : s.seeded = false) :
    whenSeeded s body = .next { s with err := .notSeeded } := by simp [whenSeeded, h, raise]

/-- Everything the first test can do: fail with `NotSeeded`, or go on (60_exceptions.md R195). -/
theorem whenSeeded_cases (s : State) (body : Answer) :
    (s.seeded = false ∧ whenSeeded s body = .next { s with err := .notSeeded }) ∨
    (s.seeded = true ∧ whenSeeded s body = body) := by
  cases h : s.seeded <;> simp [whenSeeded, h, raise]

/-- Everything the two tests of an erasure command can do (43_erasure.md R171). -/
theorem whenErasable_cases (s : State) (body : Answer) :
    (s.seeded = false ∧ whenErasable s body = .next { s with err := .notSeeded }) ∨
    (s.seeded = true ∧ s.keylen = .bits128 ∧ whenErasable s body = .next { s with err := .illegalCommand }) ∨
    (s.seeded = true ∧ s.keylen = .bits256 ∧ whenErasable s body = body) := by
  cases h : s.seeded <;> cases hk : s.keylen <;> simp [whenErasable, whenSeeded, h, hk, raise]

/-! ## The keystream request -/

/-- The key survives everything that leaves `SEED` and `KEYLEN` alone (20_memory.md R58). -/
@[simp] theorem key_advance (c : Counter) (e : List PortEvent) (s : State) : (advance c e s).key = s.key := rfl

@[simp] theorem key_writeResult (r : Int) (s : State) : (writeResult r s).key = s.key := rfl

@[simp] theorem key_beginCommand (s : State) : (beginCommand s).key = s.key := rfl

@[simp] theorem key_clearStaging (s : State) : (clearStaging s).key = s.key := rfl

/-- A keystream request is an advance of the counter and nothing else (40_getbytes.md R107). -/
theorem keystreamRequest_advance (E : Cipher) (n : Nat) (s : State) :
    ∃ e, (keystreamRequest E n s).2 = advance (s.ctr + BitVec.ofNat 128 (ceilDiv n 16)) e s := by
  by_cases h : n = 0
  · exact ⟨[], by subst h; simp [keystreamRequest, ceilDiv]⟩
  · exact ⟨_, by simp only [keystreamRequest, h, if_false]; rfl⟩

theorem length_encryptBlocks (E : Cipher) (K : Key) (blocks : List Block) :
    (encryptBlocks E K blocks).length = 16 * blocks.length := by
  induction blocks with
  | nil => rfl
  | cons b rest ih =>
    have : encryptBlocks E K (b :: rest) = (E K b).toList ++ encryptBlocks E K rest := rfl
    rw [this, List.length_append, ih, length_toList_block, List.length_cons]
    ring

/-! ## The draw loop -/

/-- A draw loop is an advance of the counter and nothing else (41_getint.md R137). -/
theorem drawLoop_advance (E : Cipher) (min max : Int) (k : Nat) (s : State) :
    ∃ c e, (drawLoop E min max k s).2 = advance c e s := by
  induction k generalizing s with
  | zero => exact ⟨s.ctr, [], by simp [drawLoop]⟩
  | succ k ih =>
    obtain ⟨e, he⟩ := keystreamRequest_advance E (rangeAnalysis Config.nativeWidth min max).nbytes s
    simp only [drawLoop]
    split
    · exact ⟨_, e, he⟩
    · obtain ⟨c', e', h'⟩ := ih (keystreamRequest E (rangeAnalysis Config.nativeWidth min max).nbytes s).2
      exact ⟨c', e ++ e', by rw [h', he, advance_advance]⟩

/-- A draw loop answers only an accepted candidate (41_getint.md R136). -/
theorem drawLoop_accepted {E : Cipher} {min max r : Int} {k : Nat} {s : State} (h : (drawLoop E min max k s).1 = some r) :
    min ≤ r ∧ r ≤ max := by
  induction k generalizing s with
  | zero => simp [drawLoop] at h
  | succ k ih =>
    simp only [drawLoop] at h
    split at h
    · rename_i ha
      simp only [Option.some.injEq] at h
      subst h
      simpa [accepts] using ha
    · exact ih h

end Sys2Proof.Machine
end

