-- ==== Sys2Proof/Laws/PerInstr.lean ====
section
/-! SUPPORT. Statements made for each command as syntax: `TableRow`, the command's word is selected by its own row of the
opcode map and by no other (30_encoding.md rule R86). -/

namespace Sys2Proof.Laws.TableRow

open Sys2Proof

/-- The word of a well-formed command is selected by a row of the map exactly when the row bears the command's mnemonic
(30_encoding.md R86). -/
def Statement (i : Instr) : Prop :=
  i.wellFormed = true → ∀ r ∈ opcodeTable, r.selects (encode i) = decide (r.mnemonic = i.mnemonic)

theorem reseed (slen : Nat) : Statement (.reseed slen) := by
  intro h
  have h' : slen ≤ 63 := by simpa [Instr.wellFormed] using h
  clear h
  interval_cases slen <;> decide

theorem seekSet : Statement .seekSet := fun _ => by decide

theorem seekInc : Statement .seekInc := fun _ => by decide

theorem getBytes : Statement .getBytes := fun _ => by decide

theorem getInt : Statement .getInt := fun _ => by decide

theorem eSeekSet : Statement .eSeekSet := fun _ => by decide

theorem eSeekInc : Statement .eSeekInc := fun _ => by decide

theorem eGetBytes : Statement .eGetBytes := fun _ => by decide

theorem eGetInt : Statement .eGetInt := fun _ => by decide

end Sys2Proof.Laws.TableRow
end

