-- ==== Sys2Proof/Tests/Slice0.lean ====
section
/-! SUPPORT. The model's own tests: expected results from the tables of 95_test_vectors.md and from words written out bit by
bit from 30_encoding.md rule R81, and a witness for the hypotheses of every obligation. -/

namespace Sys2Proof.Tests

-- One test at a time: many kernel evaluations at once need a thread and its stack each.
set_option Elab.async false

open Sys2Proof Sys2Proof.Machine

/-! ## Fixtures (95_test_vectors.md section 1): test doubles for the cipher, not the hardware -/

/-- `fold(K)`. -/
def fold : Key → Block
  | .k128 k => k
  | .k256 k => Vector.ofFn fun i : Fin 16 => k[i.val] ^^^ k[i.val + 16]

/-- `T_ID`: `E(K, B) = B`. -/
def tId : Cipher := fun _ b => b

/-- `T_REVX`: `E(K, B) = xor(reverse(B), fold(K))`. -/
def tRevx : Cipher := fun K b => Vector.ofFn fun i : Fin 16 => b[15 - i.val] ^^^ (fold K)[i.val]

/-- `A16 = a0 a1 … af`. -/
def a16 : ByteString := (List.range 16).map fun i => BitVec.ofNat 8 (0xA0 + i)

/-- `S32 = 00 01 … 1f`. -/
def s32 : ByteString := (List.range 32).map fun i => BitVec.ofNat 8 i

/-- `xx^k`. -/
def rep (x : Byte) (k : Nat) : ByteString := List.replicate k x

/-- SSG just reset, both capability inputs 1. -/
def fresh : State := State.resetWith ⟨true, true⟩

/-- SSG seeded with 16 bytes. -/
def seeded16 (seed : ByteString) (c : Counter) : State :=
  { fresh with seeded := true, seed := toSeed seed, keylen := .bits128, ctr := c }

/-- SSG seeded with 32 bytes. -/
def seeded32 (seed : ByteString) (c : Counter) : State :=
  { fresh with seeded := true, seed := toSeed seed, keylen := .bits256, ctr := c }

/-- A view of the next state; none after a fault or a refusal. -/
def view {α : Type} (a : Answer) (f : State → α) : Option α :=
  match a with
  | .next t => some (f t)
  | .fault _ => none
  | .refused _ => none

/-- The operands of a range. -/
def withRange (s : State) (min max : Int) : State :=
  { s with minReg := BitVec.ofInt 64 min, maxReg := BitVec.ofInt 64 max }

/-! ## Well-formedness -/

/-- A seed length of 64 has no encoding (95_test_vectors.md V-D23). -/
theorem test_wellFormed_refuses_slen_64 : (Instr.reseed 64).wellFormed = false := by decide

/-- The largest seed length has one (V-D6). -/
theorem test_wellFormed_admits_slen_63 : (Instr.reseed 63).wellFormed = true := by decide

/-! ## Decoding: words written out bit by bit, bit 31 first: reserved 18, SLEN 6, reserved 2, MODE 1, E 1, OP 4 -/

theorem test_decode_reseed : decode 0b000000000000000000_010000_00_0_0_0001 = .ok (.reseed 16) := by decide
theorem test_decode_reseed_48 : decode 0b000000000000000000_110000_00_0_0_0001 = .ok (.reseed 48) := by decide
theorem test_decode_seekSet : decode 0b000000000000000000_000000_00_0_0_0010 = .ok .seekSet := by decide
theorem test_decode_seekInc : decode 0b000000000000000000_000000_00_1_0_0010 = .ok .seekInc := by decide
theorem test_decode_getBytes : decode 0b000000000000000000_000000_00_0_0_0011 = .ok .getBytes := by decide
theorem test_decode_getInt : decode 0b000000000000000000_000000_00_0_0_0100 = .ok .getInt := by decide
theorem test_decode_eSeekSet : decode 0b000000000000000000_000000_00_0_1_0010 = .ok .eSeekSet := by decide
theorem test_decode_eSeekInc : decode 0b000000000000000000_000000_00_1_1_0010 = .ok .eSeekInc := by decide
theorem test_decode_eGetBytes : decode 0b000000000000000000_000000_00_0_1_0011 = .ok .eGetBytes := by decide
theorem test_decode_eGetInt : decode 0b000000000000000000_000000_00_0_1_0100 = .ok .eGetInt := by decide

/-- The illegal words of 95_test_vectors.md V-D1, V-D7, V-D8, V-D13, V-D16, V-D19 to V-D23. -/
theorem test_decode_illegal :
    decode 0x00000000 = .error .reservedOp ∧ decode 0x00002011 = .error .reseedVariant ∧
    decode 0x00002021 = .error .reseedVariant ∧ decode 0x00000102 = .error .slenNotZero ∧
    decode 0x00000023 = .error .modeNotZero ∧ decode 0x00000034 = .error .modeNotZero ∧
    decode 0x00000005 = .error .reservedOp ∧ decode 0x0000000F = .error .reservedOp ∧
    decode 0x00000043 = .error .reservedBits ∧ decode 0x00000083 = .error .reservedBits ∧
    decode 0x00004003 = .error .reservedBits ∧ decode 0x80000003 = .error .reservedBits ∧
    decode 0x00004001 = .error .reservedBits := by decide

/-- The words of the opcode map (30_encoding.md R86). -/
theorem test_encode_words :
    [Instr.reseed 16, .reseed 32, .seekSet, .seekInc, .getBytes, .getInt, .eSeekSet, .eSeekInc, .eGetBytes, .eGetInt].map encode =
      [0x00001001, 0x00002001, 0x00000002, 0x00000022, 0x00000003, 0x00000004, 0x00000012, 0x00000032, 0x00000013,
        0x00000014] := by decide

/-- The host's numbering of a table row is the command word's. -/
theorem test_decodeTableWord : decodeTableWord 32 0x00002001 = some (.reseed 32) ∧ decodeTableWord 32 5 = none := by decide

/-! ## Nonce and increment (95_test_vectors.md section 3.1) -/

/-- V-N3, V-N4. -/
theorem test_nonce :
    nonce 0x0102030405060708090a0b0c0d0e0f10 = #v[1, 2, 3, 4, 5, 6, 7, 8, 9, 10, 11, 12, 13, 14, 15, 16] ∧
    nonce 0x00000000000000010000000000000000 = #v[0, 0, 0, 0, 0, 0, 0, 1, 0, 0, 0, 0, 0, 0, 0, 0] := by decide +kernel

/-- V-N7, V-N8. -/
theorem test_inc128 :
    inc128 #v[0, 0, 0, 0, 0, 0, 0, 0, 0xff, 0xff, 0xff, 0xff, 0xff, 0xff, 0xff, 0xff] =
      #v[0, 0, 0, 0, 0, 0, 0, 1, 0, 0, 0, 0, 0, 0, 0, 0] ∧
    inc128 (Vector.replicate 16 0xff) = Vector.replicate 16 0 := by decide +kernel

/-- V-B13 and V-B14 through the emulated backend: the wrap at `2^128` and the carry past 64 bits. -/
theorem test_emulated_keystream :
    (keystreamRequest tId 32 { seeded16 (rep 0 16) (-1) with bsel := .emulated }).1 = rep 0xff 16 ++ rep 0 16 ∧
    (keystreamRequest tId 32 { seeded16 (rep 0 16) 0xffffffffffffffff with bsel := .emulated }).1 =
      rep 0 8 ++ rep 0xff 8 ++ rep 0 7 ++ [1] ++ rep 0 8 := by decide +kernel

/-! ## The commands (95_test_vectors.md sections 3.2 to 3.5) -/

/-- V-B8: `T_ID`, `A16`, counter `0xfe`, 33 bytes. -/
theorem test_getBytes_partial_block :
    view (getBytes tId { seeded16 a16 0xfe with len := 33 }) (fun t => (t.out, t.ctr, t.err)) =
      some (rep 0 15 ++ [0xfe] ++ rep 0 15 ++ [0xff, 0], 0x101, .ok) := by decide +kernel

/-- V-B10: `T_REVX`, `A16`, counter 0, 20 bytes. -/
theorem test_getBytes_key :
    view (getBytes tRevx { seeded16 a16 0 with len := 20 }) (fun t => (t.out, t.ctr)) =
      some (a16 ++ [0xa1, 0xa1, 0xa2, 0xa3], 2) := by decide +kernel

/-- V-I11: a negative result after three rejections. -/
theorem test_getInt_negative :
    view (getInt tRevx (withRange (seeded16 (rep 0 16) 5) (-2) 2)) (fun t => (t.result, t.ctr, t.err)) =
      some (0xFFFFFFFFFFFFFFFE, 9, .ok) := by decide +kernel

/-- V-I12: 128 draws, all rejected. -/
theorem test_getInt_exhausted :
    view (getInt tRevx (withRange (seeded16 (rep 0 16) 257) 0 256)) (fun t => (t.result, t.ctr, t.err)) =
      some (0, 385, .generatorExhausted) := by decide +kernel

/-- V-I14: the 128th draw is accepted. -/
theorem test_sampleInt_last_draw :
    (sampleInt tRevx (withRange (seeded16 (rep 0 16) 385) 0 256)).1 = .ok ∧
    (sampleInt tRevx (withRange (seeded16 (rep 0 16) 385) 0 256)).2.ctr = 513 := by decide +kernel

/-- V-I19, wide, and V-I24, a narrow candidate above the native maximum. -/
theorem test_sampleInt_extremes :
    (sampleInt tRevx (withRange (seeded16 (rep 0 16) (2 ^ 63 + 5)) (-2 ^ 63) (2 ^ 63 - 1))).2.result = 0x8000000000000005 ∧
    (sampleInt tRevx (withRange (seeded16 (rep 0 16) (2 ^ 62 - 1)) (2 ^ 62 + 1) (2 ^ 63 - 1))).2.result =
      0x4000000000000001 := by decide +kernel

/-- V-I8: `B = 34 12` reads as `0x1234`, masked `0x34`. -/
theorem test_drawValue_little_endian : drawValue ⟨false, 2, 0x1FF⟩ [0x34, 0x12] = 0x34 ∧ intLE [0x34, 0x12] = 0x1234 := by decide

/-- V-I22 and V-I26: the two sides of the wide-case test. -/
theorem test_rangeAnalysis_threshold :
    rangeAnalysis 64 0 (2 ^ 63 - 1) = ⟨false, 8, 2 ^ 63 - 1⟩ ∧ rangeAnalysis 64 (-1) (2 ^ 63 - 1) = ⟨true, 8, 2 ^ 64 - 1⟩ := by
  decide +kernel

/-- V-K1. -/
theorem test_seekSet : view (execSeekSet { seeded16 a16 9 with pos := 0x1234 }) (fun t => (t.ctr, t.seed == toSeed a16)) =
    some (0x1234, true) := by decide +kernel

/-- V-K6. -/
theorem test_seekSet_unseeded : view (execSeekSet { fresh with pos := 1 }) (fun t => (t.ctr, t.err)) = some (0, .notSeeded) := by
  decide +kernel

/-- V-K2. -/
theorem test_seekInc : view (execSeekInc { seeded16 a16 0x10 with pos := 0x10 }) (fun t => t.ctr) = some 0x20 := by decide +kernel

/-- V-K4. -/
theorem test_seekInc_wraps : view (execSeekInc { seeded16 a16 (-1) with pos := 2 }) (fun t => t.ctr) = some 1 := by decide +kernel

/-- V-K11: a 16-byte seed after a 32-byte one. -/
theorem test_reseed_shortens : view (execReseed 16 { seeded32 s32 7 with seedin := toSeed (a16 ++ rep 0x55 16) })
    (fun t => (t.seed.toList, t.keylen, t.ctr, t.seedin.toList, t.err)) =
      some (a16 ++ rep 0 16, .bits128, 0, rep 0 32, .ok) := by decide +kernel

/-- V-K10. -/
theorem test_reseed_bad_length : view (execReseed 33 { seeded32 s32 7 with seedin := toSeed a16, pos := 9 })
    (fun t => (t.seed.toList, t.keylen, t.ctr, t.seedin.toList, t.err)) =
      some (s32, .bits256, 7, rep 0 32, .invalidSeedLength) := by decide +kernel

/-- V-E1. -/
theorem test_eGetBytes : view (eGetBytes tRevx { seeded32 s32 0 with len := 4 }) (fun t => (t.out, t.seed.toList, t.ctr)) =
    some (rep 0x10 4, rep 0x10 12 ++ [0x11] ++ rep 0x10 15 ++ [0x12, 0x10, 0x10, 0x10], 0) := by decide +kernel

/-- V-E3. -/
theorem test_eGetBytes_zero : view (eGetBytes tRevx (seeded32 s32 0)) (fun t => (t.out, t.seed.toList, t.ctr)) =
    some ([], rep 0x10 16 ++ [0x11] ++ rep 0x10 15, 0) := by decide +kernel

/-- V-E6. -/
theorem test_eGetInt : view (eGetInt tRevx (withRange (seeded32 s32 5) 1 6)) (fun t => (t.result, t.seed.toList, t.ctr)) =
    some (6, [0x16] ++ rep 0x10 15 ++ [0x17] ++ rep 0x10 15, 0) := by decide +kernel

/-- V-E8. -/
theorem test_eGetInt_empty_range :
    view (eGetInt tRevx (withRange (seeded32 s32 5) 5 3)) (fun t => (t.err, t.seed.toList, t.ctr)) =
      some (.invalidRange, s32, 5) := by decide +kernel

/-- V-E13. -/
theorem test_eSeekSet : view (execESeekSet { seeded32 s32 0 with pos := 7 }) (fun t => (t.ctr, t.seed.toList)) = some (7, s32) := by
  decide +kernel

/-- V-E11. -/
theorem test_eSeekSet_short_key : view (execESeekSet { seeded16 a16 0 with pos := 1 }) (fun t => (t.ctr, t.err)) =
    some (0, .illegalCommand) := by decide +kernel

/-- V-E14. -/
theorem test_eSeekInc : view (execESeekInc { seeded32 s32 7 with pos := 3 }) (fun t => (t.ctr, t.seed.toList)) = some (10, s32) := by
  decide +kernel

/-- V-E12. -/
theorem test_eSeekInc_unseeded : view (execESeekInc { fresh with pos := 3 }) (fun t => (t.ctr, t.err)) = some (0, .notSeeded) := by
  decide +kernel

/-! ## The register file -/

/-- The `STATUS` words of 95_test_vectors.md section 3.7. -/
theorem test_statusWord :
    [fresh, seeded16 a16 0, seeded32 s32 0, { fresh with err := .notSeeded }, { fresh with err := .invalidSeedLength },
      { seeded32 s32 0 with err := .invalidRange }, { seeded16 a16 0 with err := .generatorExhausted },
      { seeded16 a16 0 with err := .illegalCommand }, { seeded32 s32 0 with bsel := .emulated }].map statusWord =
      [0x00, 0x02, 0x06, 0x50, 0x10, 0x26, 0x32, 0x62, 0x0E] := by decide +kernel

/-- 95_test_vectors.md P1: `W 0x40 0xa3a2a1a0` stages seed bytes 0 to 3. -/
theorem test_seedin_packing : view (hostWrite 0x40 4 0xa3a2a1a0 fresh) (fun t => t.seedin.toList) =
    some ([0xa0, 0xa1, 0xa2, 0xa3] ++ rep 0 28) := by decide +kernel

/-- 20_memory.md R57: one byte a read, in bits 7:0. -/
theorem test_dout : view (hostRead 0x0C 4 { seeded16 a16 2 with out := [0xaf, 1] }) (fun t => (t.reads, t.out)) =
    some ([0xaf], [1]) := by decide +kernel

/-- 20_memory.md R51, R52: the last register is at `0x7C`; misaligned offsets and those beyond the file have none. -/
theorem test_regAt_edges :
    regAt 0x7C = some .reserved ∧ regAt 0x80 = none ∧ regAt 0x02 = none ∧ regAt 0x5C = some (.seedin 7) ∧
    regAt 0x6C = some (.ctr 3) ∧ accessedReg 0x04 2 = none := by decide

/-- 20_memory.md R51, R53: `RESULT_LO` at `0x30` holds the less significant word. -/
theorem test_result_words :
    view (hostRead 0x30 4 { fresh with result := 0x1122334455667788 }) (fun t => t.reads) = some [0x55667788] ∧
    view (hostRead 0x34 4 { fresh with result := 0x1122334455667788 }) (fun t => t.reads) = some [0x11223344] := by decide +kernel

/-- 95_test_vectors.md P2: `MIN = -2` in two words. -/
theorem test_min_words : view (hostWrite 0x24 4 0xFFFFFFFF { fresh with minReg := 0xFFFFFFFE }) (fun t => operandMin t) =
    some (-2) := by decide +kernel

/-- 95_test_vectors.md P4: a word that is no command (`STATUS` `0x60`). -/
theorem test_illegal_word : view (step { fresh with host := [write32 0 5] }) statusWord = some 0x60 := by decide +kernel

/-- The next step after `withFetchWord` runs the word: unseeded `GETBYTES` reads `STATUS` `0x50` (section 3.7). -/
theorem test_withFetchWord : view (step (fresh.withFetchWord 32 0x00000003)) statusWord = some 0x50 := by decide +kernel

/-! ## Assembler lines (30_encoding.md R91, R92) -/

/-- A line of 95_test_vectors.md P1 and one of P2, with its comment. -/
theorem test_parseLine :
    parseLine "GETBYTES 16          ; -> a0 a1" = some (some (.core (.getBytes 16))) ∧
    parseLine "GETINT   -2, 2       ; v = 513" = some (some (.core (.getInt (-2) 2))) ∧
    parseLine "; a comment" = some none ∧ parseLine "GETBYTES" = none := by decide +kernel

/-- R92 (a), (d): the counter left out, also for the seed of `SLEN = 0`, and the seek with its mode written out. -/
theorem test_parseLine_pseudo :
    (parseLine "RESEED a0a1").map (fun l => l.bind SourceLine.expand) = some (some (.reseed [0xa0, 0xa1] 0)) ∧
    (parseLine "RESEED").map (fun l => l.bind SourceLine.expand) = some (some (.reseed [] 0)) ∧
    (parseLine "RESEED , 7").map (fun l => l.bind SourceLine.expand) = some (some (.reseed [] 7)) ∧
    (parseLine "SEEK 0xF8, INCREASE").map (fun l => l.bind SourceLine.expand) = some (some (.seekInc 0xF8)) := by decide +kernel

/-- R92 (c): `NEW.ERASURE` takes 32 bytes only. -/
theorem test_newErasure_needs_32_bytes :
    (SourceLine.newErasure s32 none).expand = some (.reseed s32 0) ∧ (SourceLine.newErasure a16 none).expand = none := by
  decide +kernel

/-- 95_test_vectors.md P2: the register-level form of `SEEK.INC 0xF8`. -/
theorem test_actions : (AsmLine.seekInc 0xF8).actions =
    some [write32 0x10 0xF8, write32 0x14 0, write32 0x18 0, write32 0x1C 0, write32 0x00 0x22] := by decide +kernel

/-- A seed of 63 bytes is the longest a line can hold (30_encoding.md R81; 95_test_vectors.md V-D6, V-D23). -/
theorem test_seed_length_limit :
    (parseSeed (List.replicate 126 '0')).isSome = true ∧ parseSeed (List.replicate 128 '0') = none ∧
    (AsmLine.reseed (rep 0 63) 0).actions.isSome = true ∧ (AsmLine.reseed (rep 0 64) 0).actions = none ∧
    (AsmLine.reseed (rep 0 96) 0).actions = none := by decide +kernel

/-! ## Witnesses: for each obligation with hypotheses, states and operands that meet them, clause by clause -/

/-- SSG unseeded, seeded with 16 and with 32 bytes, with output waiting, and with the host's next actions. -/
def st16 : State := seeded16 a16 5

/-- As `st16`, with a 32-byte seed. -/
def st32 : State := seeded32 s32 5

/-- Two output bytes wait. -/
def stBusy : State := { st16 with out := [1, 2] }

/-- The host's next actions. -/
def doing (s : State) (l : List HostAction) : State := { s with host := l }

theorem witness_DecodeInvertsEncode :
    (Instr.reseed 0).wellFormed = true ∧ (Instr.reseed 63).wellFormed = true ∧ Instr.eGetInt.wellFormed = true := by decide

theorem witness_EncodeInvertsDecode : decode 0x00003F01 = .ok (.reseed 63) ∧ decode 0x00000032 = .ok .eSeekInc := by decide

theorem witness_OpcodeMapSelectsTheCommand :
    (∃ r ∈ opcodeTable, r.selects 0x00003F01 = true) ∧ (∃ r ∈ opcodeTable, r.selects 0x00000014 = true) := by decide

theorem witness_IllegalWordsOnlySetErr :
    (doing st32 [write32 0x00 0x00004001]).busy = false ∧ decode 0x00004001 = .error .reservedBits ∧
    (doing st32 [write32 0x00 0x00000000]).host = .write 0x00 4 0x00000000 :: [] ∧ decode 0x00000000 = .error .reservedOp := by
  decide +kernel

theorem witness_ResetIsTheOnlyWayBack :
    (doing stBusy [.reset ⟨false, true⟩]).host = .reset ⟨false, true⟩ :: [] ∧
    (doing st32 [.reset ⟨false, true⟩]).reads = (doing stBusy [.reset ⟨false, true⟩]).reads ∧
    (∃ t, step (doing stBusy [.reset ⟨false, true⟩]) = .next t) ∧
    (∃ t, step (doing st16 [write32 0x00 0x00000002]) = .next t) ∧ (∃ t, step (doing stBusy [read32 0x0C]) = .next t) :=
  ⟨rfl, rfl, ⟨_, rfl⟩, ⟨_, rfl⟩, ⟨_, rfl⟩⟩

theorem witness_StepRunsTheDecodedCommand :
    (doing st16 [write32 0x00 0x00000003, read32 0x04]).busy = false ∧
    (doing st16 [write32 0x00 0x00000003, read32 0x04]).host = .write 0x00 4 0x00000003 :: [read32 0x04] ∧
    decode 0x00000003 = .ok .getBytes ∧ st16.host = [] := by decide +kernel

theorem witness_OnlyUndisciplinedAccessesAreRefused :
    stepDisciplined (doing stBusy [read32 0x0C]) = true ∧ stepDisciplined (doing stBusy [read32 0x30]) = false ∧
    stepDisciplined (doing st16 [.read 0x80 4]) = false ∧ stepDisciplined (doing st16 [.write 0x7E 4 1]) = false ∧
    stepDisciplined (doing st16 [.write 0x7C 2 1]) = false ∧ stepDisciplined (doing st16 [.read 0x7C 8]) = false ∧
    (doing stBusy [write32 0x00 3]).busy = true ∧ (doing stBusy [write32 0x5C 3]).host = .write 0x5C 4 3 :: [] ∧
    (doing stBusy [write32 0x7C 3]).host = .write 0x7C 4 3 :: [] ∧ (doing stBusy [read32 0x6C]).host = .read 0x6C 4 :: [] ∧
    (doing stBusy [read32 0x7C]).host = .read 0x7C 4 :: [] := by decide +kernel

/-- The offsets a busy SSG refuses and those it answers exclude each other. -/
theorem witness_busy_offsets_exclude_each_other :
    (∀ o ∈ [0x00, 0x08, 0x10, 0x14, 0x18, 0x1C, 0x20, 0x24, 0x28, 0x2C, 0x40, 0x44, 0x48, 0x4C, 0x50, 0x54, 0x58, 0x5C],
      o ∉ [0x04, 0x0C, 0x30, 0x34, 0x38, 0x3C, 0x60, 0x64, 0x68, 0x6C, 0x70, 0x74, 0x78, 0x7C]) ∧
    (∀ o ∈ [0x30, 0x34, 0x60, 0x64, 0x68, 0x6C],
      o ∉ [0x00, 0x04, 0x08, 0x0C, 0x10, 0x14, 0x18, 0x1C, 0x20, 0x24, 0x28, 0x2C, 0x38, 0x3C,
        0x40, 0x44, 0x48, 0x4C, 0x50, 0x54, 0x58, 0x5C, 0x70, 0x74, 0x78, 0x7C]) := by decide

theorem st16_inv : st16.Inv := ⟨by decide, by decide +kernel, by decide, by decide, by decide⟩

theorem stBusy_inv : stBusy.Inv := ⟨by decide, by decide +kernel, by decide, by decide, by decide⟩

theorem witness_StepKeepsTheInvariant :
    stBusy.Inv ∧ (∃ t, step (doing stBusy [read32 0x0C]) = .next t) ∧
    st16.Inv ∧ (∃ t, step (doing st16 [write32 0x00 0x00001001]) = .next t) := ⟨stBusy_inv, ⟨_, rfl⟩, st16_inv, ⟨_, rfl⟩⟩

theorem witness_StatusFieldsReadAsListed :
    st16.out = [] ∧ stBusy.out ≠ [] ∧ (doing stBusy [read32 0x04]).host = .read 0x04 4 :: [] ∧
    (doing stBusy [write32 0x04 1]).host = .write 0x04 4 1 :: [] := by decide

theorem witness_CapIsConstantBetweenResets :
    (doing stBusy [read32 0x70]).host = .read 0x70 4 :: [] ∧ (doing stBusy [write32 0x70 0]).host = .write 0x70 4 0 :: [] ∧
    (∃ t, step (doing st16 [.reset ⟨false, false⟩]) = .next t ∧ t.cap ≠ (doing st16 [.reset ⟨false, false⟩]).cap) :=
  ⟨rfl, rfl, _, rfl, by decide⟩

theorem witness_CounterReadsInFourWords :
    st16.busy = false ∧ (doing st16 [read32 0x60, read32 0x64, read32 0x68, read32 0x6C]).host =
      .read 0x60 4 :: .read 0x64 4 :: .read 0x68 4 :: .read 0x6C 4 :: [] ∧
    (doing stBusy [write32 0x60 7]).host = .write (0x60 + 4 * (0 : Fin 4).val) 4 7 :: [] ∧
    (doing stBusy [read32 0x6C]).busy = true ∧ (doing stBusy [read32 0x6C]).host = .read (0x60 + 4 * (3 : Fin 4).val) 4 :: [] := by
  decide

/-- Clauses at both ends of their offset lists; no offset lies in the first list and in the second. -/
theorem witness_RegistersTakeOnlyTheirWrites :
    st16.busy = false ∧ 0x08 ∈ [0x08, 0x10, 0x14, 0x18, 0x1C, 0x20, 0x24, 0x28, 0x2C] ∧
    0x2C ∈ [0x08, 0x10, 0x14, 0x18, 0x1C, 0x20, 0x24, 0x28, 0x2C] ∧
    (∀ o ∈ [0x08, 0x10, 0x14, 0x18, 0x1C, 0x20, 0x24, 0x28, 0x2C],
      o ∉ [0x04, 0x0C, 0x30, 0x34, 0x38, 0x3C, 0x60, 0x64, 0x68, 0x6C, 0x70, 0x74, 0x78, 0x7C]) := by decide

theorem witness_StagingRegisterPacksAndClears :
    st16.busy = false ∧ regAt (0x40 + 4 * (7 : Fin 8).val) = some (.seedin 7) ∧ (∃ t, exec (.reseed 32) st16 = .next t) :=
  ⟨rfl, rfl, _, rfl⟩

theorem witness_OutputIsDeliveredOnceInOrder :
    (doing stBusy (drainActions 3)).host = drainActions ((doing stBusy (drainActions 3)).out.length + 1) ++ [] ∧
    (∃ t, step (doing stBusy [read32 0x0C]) = .next t ∧ 2 ≤ stBusy.out.length ∧ t.busy = true) ∧
    (∃ t, step (doing { stBusy with out := [1] } [read32 0x0C]) = .next t ∧ t.busy = false) :=
  ⟨by decide, ⟨_, rfl, by decide, rfl⟩, ⟨_, rfl, rfl⟩⟩

theorem witness_SecretsCannotBeRead :
    (∃ t, hostRead 0x5C 4 stBusy = .next t) ∧ (∃ t, hostRead 0x0C 4 stBusy = .next t) ∧ ∃ t, hostRead 0x6C 4 st32 = .next t :=
  ⟨⟨_, rfl⟩, ⟨_, rfl⟩, ⟨_, rfl⟩⟩

theorem witness_KeystreamBytesComeBlockByBlock : 16 * 1 + (0 : Fin 16).val < 17 ∧ 16 * 0 + (15 : Fin 16).val < 16 := by decide

theorem witness_RequestKindsAgree : 1 ≤ 1 ∧ 1 ≤ 17 := by decide

/-- The clauses of the advance at both ends of each range of byte counts. -/
theorem witness_RequestAdvancesByWholeBlocks :
    ceilDiv 0 16 = 0 ∧ ceilDiv 1 16 = 1 ∧ ceilDiv 16 16 = 1 ∧ ceilDiv 17 16 = 2 ∧ ceilDiv 31 16 = 2 ∧ ceilDiv 32 16 = 2 ∧
    ceilDiv 33 16 = 3 := by decide

theorem witness_CommandsMakeTheseRequests :
    fresh.seeded = false ∧ (∃ t, exec .getBytes fresh = .next t) ∧
    (Instr.eGetBytes.isErasure = true ∧ st16.keylen = .bits128 ∧ ∃ t, exec .eGetBytes st16 = .next t) ∧
    (st32.seeded = true ∧ (Instr.eGetInt.isErasure = true → st32.keylen = .bits256) ∧ ∃ t, exec .eGetInt st32 = .next t) :=
  ⟨rfl, ⟨_, rfl⟩, ⟨rfl, rfl, _, rfl⟩, ⟨rfl, fun _ => rfl, _, rfl⟩⟩

/-- For the statements whose hypotheses are about `SEEDED`, `KEYLEN` and `LEN = 0` alone: `GetBytesReturnsKeystream`,
`GetBytesOfZeroLength`, the four seeks, `ErasureNeedsASeedOf32Bytes` and `ErasingGetBytesReplacesTheSeed`. -/
theorem witness_seeded_and_unseeded :
    fresh.seeded = false ∧ st16.seeded = true ∧ st32.seeded = true ∧ st16.keylen ≠ .bits256 ∧ st32.keylen = .bits256 ∧
    fresh.len = 0 ∧ st16.len = 0 ∧ st32.len = 0 := by decide

theorem witness_OutputIsContiguousAcrossCalls :
    st16.seeded = true ∧ 16 % 16 = 0 ∧ 16 + 4294967279 < 2 ^ 32 ∧ 0 % 16 = 0 ∧ 0 + 4294967295 < 2 ^ 32 := by decide

/-- The counter just reaches the top, and a byte of the block after it. -/
theorem witness_CounterWrapsAtTheTop :
    (seeded16 a16 (-1)).seeded = true ∧
    2 ^ 128 ≤ ({ seeded16 a16 (-1) with len := 1 } : State).ctr.toNat + ceilDiv ({ seeded16 a16 (-1) with len := 1 } : State).len.toNat 16 ∧
    2 ^ 128 - ({ seeded16 a16 (-1) with len := 17 } : State).ctr.toNat ≤ 1 ∧
    16 * 1 + (0 : Fin 16).val < ({ seeded16 a16 (-1) with len := 17 } : State).len.toNat := by decide +kernel

/-- For `GetIntExitsEarly` and `GetIntTakesTheFirstAcceptedDraw`: `GETINT 5, 3`, `GETINT 5, 5` and `GETINT -2^63, 2^63 - 1`: three ranges that exclude each other. -/
theorem witness_GetInt_ranges :
    operandMin (withRange st16 5 3) > operandMax (withRange st16 5 3) ∧
    operandMin (withRange st16 5 5) = operandMax (withRange st16 5 5) ∧
    operandMin (withRange st16 (-2 ^ 63) (2 ^ 63 - 1)) < operandMax (withRange st16 (-2 ^ 63) (2 ^ 63 - 1)) ∧
    (withRange st16 5 3).seeded = true := by decide +kernel

/-- Narrow and wide ranges next to the threshold, for `W = 64` and for `W = 8` (also `SamplingIsUnbiased`). -/
theorem witness_RangeAnalysisIsMinimal :
    (-2 ^ (64 - 1) ≤ (0 : Int) ∧ (0 : Int) < 2 ^ 63 - 1 ∧ (2 ^ 63 - 1 : Int) ≤ 2 ^ (64 - 1) - 1 ∧ (2 ^ 63 - 1 : Int) - 0 ≤ 2 ^ (64 - 1) - 1) ∧
    (-2 ^ (64 - 1) ≤ (-1 : Int) ∧ (2 ^ (64 - 1) - 1 : Int) < (2 ^ 63 - 1 : Int) - (-1)) ∧
    (8 % 8 = 0 ∧ -2 ^ (8 - 1) ≤ (-128 : Int) ∧ (127 : Int) ≤ 2 ^ (8 - 1) - 1 ∧ (2 ^ (8 - 1) - 1 : Int) < 127 - (-128)) := by decide

theorem witness_GetIntResultIsInRange :
    (∃ t, exec .getInt (withRange st16 5 5) = .next t ∧ t.err = .ok) ∧
    ∃ t, exec .eGetInt (withRange st32 5 5) = .next t ∧ t.err = .ok := by
  constructor
  · obtain ⟨t, ht⟩ : ∃ t, exec .getInt (withRange st16 5 5) = .next t := ⟨_, rfl⟩
    exact ⟨t, ht, by cases ht; rfl⟩
  · obtain ⟨t, ht⟩ : ∃ t, exec .eGetInt (withRange st32 5 5) = .next t := ⟨_, rfl⟩
    exact ⟨t, ht, by cases ht; rfl⟩

/-- The case `GeneratorExhausted` needs a cipher that rejects 128 times: `test_getInt_exhausted` shows it for `T_REVX`. -/
theorem witness_GetIntAdvancesOncePerDraw :
    (∃ t, exec .getInt (withRange st16 5 5) = .next t) ∧ ∃ t, exec .getInt (withRange st16 5 3) = .next t :=
  ⟨⟨_, rfl⟩, ⟨_, rfl⟩⟩

theorem witness_PowerOfTwoRangesNeedOneDraw :
    everyDrawAccepted (withRange st16 0 1) = true ∧ everyDrawAccepted (withRange st32 0 255) = true ∧
    everyDrawAccepted (withRange st32 (-2 ^ 63) (2 ^ 63 - 1)) = true ∧
    everyDrawAccepted (withRange st32 0 (2 ^ 63 - 1)) = true ∧ everyDrawAccepted (withRange st32 0 256) = false := by
  decide +kernel

/-- Every illegal length next to a legal one. -/
theorem witness_ReseedInstallsTheStagedSeed :
    ∀ slen ∈ [0, 15, 17, 31, 33, 63], slen ≤ 63 ∧ slen ≠ 16 ∧ slen ≠ 32 := by decide

theorem witness_BackendFollowsKeyLengthAndCapability :
    (∃ t, exec (.reseed 16) st32 = .next t) ∧ (∃ t, exec .eGetBytes st32 = .next t) ∧ (∃ t, exec .seekSet st16 = .next t) ∧
    (∃ t, step (doing st16 [write32 0x00 0x00002001]) = .next t ∧ t.seeded = true) ∧
    (st16.seeded = true → st16.bsel = backend st16.cap st16.keylen) :=
  ⟨⟨_, rfl⟩, ⟨_, rfl⟩, ⟨_, rfl⟩, ⟨_, rfl, rfl⟩, fun _ => rfl⟩

/-- Two different states with one staged seed, counter and pair of capability inputs, for both legal lengths. -/
theorem witness_ReseedForgetsTheOldStream :
    (16 = 16 ∨ 16 = 32) ∧ (32 = 16 ∨ 32 = 32) ∧ st16 ≠ st32 ∧ st16.seedin.toList.take 32 = st32.seedin.toList.take 32 ∧
    st16.pos = st32.pos ∧ st16.cap = st32.cap := by decide +kernel

/-- For `ErasureNeedsASeedOf32Bytes`, with `witness_seeded_and_unseeded`. -/
theorem witness_erasure_commands :
    ∀ i ∈ [Instr.eSeekSet, .eSeekInc, .eGetBytes, .eGetInt], i.isErasure = true := by decide

/-- Both backends of a seeded state, byte counts 0, a multiple of 16 and none. -/
theorem witness_ErasingGetBytesCornerCases :
    st32.seeded = true ∧ st32.keylen = .bits256 ∧ st32.len = 0 ∧ st32.bsel = .native ∧
    ({ st32 with bsel := .emulated, len := 48 } : State).bsel = .emulated ∧
    ({ st32 with bsel := .emulated, len := 48 } : State).len.toNat % 16 = 0 ∧
    ({ st32 with len := 4294967295 } : State).len.toNat % 16 ≠ 0 := by decide

theorem witness_ErasingGetIntSamplesThenReseeds :
    (∃ t, exec .getInt (withRange st32 9 9) = .next t ∧ t.err = .ok) ∧
    (∃ t, exec .getInt (withRange st32 5 3) = .next t ∧ t.err ≠ .ok) ∧
    operandMin (withRange st32 9 9) = operandMax (withRange st32 9 9) := by
  refine ⟨?_, ?_, by decide⟩
  · obtain ⟨t, ht⟩ : ∃ t, exec .getInt (withRange st32 9 9) = .next t := ⟨_, rfl⟩
    exact ⟨t, ht, by cases ht; rfl⟩
  · obtain ⟨t, ht⟩ : ∃ t, exec .getInt (withRange st32 5 3) = .next t := ⟨_, rfl⟩
    exact ⟨t, ht, by cases ht; decide⟩

theorem witness_ErasureResetsCounterAndDependsOnNothingElse :
    (∃ t, exec .eGetBytes st32 = .next t ∧ t.err = .ok) ∧
    (∃ t, exec .eGetBytes { st32 with result := 7, err := .invalidRange, bsel := .emulated } = .next t ∧ t.err = .ok) :=
  ⟨⟨_, rfl, rfl⟩, ⟨_, rfl, rfl⟩⟩

/-- Two ciphers with the same output and other material: `E.GETBYTES 0`, and `E.GETINT 5, 5`. -/
theorem witness_ErasureMaterialReachesOnlyTheSeed :
    (ks tId st32.key st32.ctr (st32.len.toNat + 32)).take st32.len.toNat =
      (ks tRevx st32.key st32.ctr (st32.len.toNat + 32)).take st32.len.toNat ∧
    ks tId st32.key st32.ctr 32 ≠ ks tRevx st32.key st32.ctr 32 ∧
    sampleInt tId (withRange st32 5 5) = sampleInt tRevx (withRange st32 5 5) := by decide +kernel

theorem witness_NothingButReseedRunsUnseeded :
    fresh.seeded = false ∧ Instr.eGetInt.isReseed = false ∧ ∃ t, exec .seekSet fresh = .next t ∧ t.err = .notSeeded :=
  ⟨rfl, rfl, _, rfl, rfl⟩

/-- One state for each of the tests of 60_exceptions.md R197 a word meets. -/
theorem witness_TestsAreMadeInOrder :
    (∃ t, step (doing fresh [write32 0x00 0]) = .next t) ∧ (∃ t, step (doing fresh [write32 0x00 0x14]) = .next t) ∧
    (∃ t, step (doing st16 [write32 0x00 0x14]) = .next t) ∧ (∃ t, step (doing st16 [write32 0x00 0x00001401]) = .next t) ∧
    (∃ t, step (doing (withRange st32 5 3) [write32 0x00 0x14]) = .next t) ∧
    (∃ t, step (doing (withRange st16 5 5) [write32 0x00 0x04]) = .next t) ∧ stBusy.busy = true ∧ st16.busy = false :=
  ⟨⟨_, rfl⟩, ⟨_, rfl⟩, ⟨_, rfl⟩, ⟨_, rfl⟩, ⟨_, rfl⟩, ⟨_, rfl⟩, rfl, rfl⟩

/-- `GeneratorExhausted` needs a cipher that rejects 128 times: `test_getInt_exhausted` shows it for `T_REVX`. -/
theorem witness_ErrorsLeaveTheStateAsListed :
    decode 0x00000000 = .error .reservedOp ∧
    (∃ t, exec .getBytes fresh = .next t ∧ t.err ≠ .ok) ∧ (∃ t, exec .eSeekInc st16 = .next t ∧ t.err ≠ .ok) ∧
    (∃ t, exec (.reseed 20) st16 = .next t ∧ t.err ≠ .ok) ∧
    (∃ t, exec .getInt (withRange st16 5 3) = .next t ∧ t.err ≠ .ok) := by
  refine ⟨by decide, ⟨_, rfl, by decide⟩, ⟨_, rfl, by decide⟩, ⟨_, rfl, by decide⟩, ?_⟩
  obtain ⟨t, ht⟩ : ∃ t, exec .getInt (withRange st16 5 3) = .next t := ⟨_, rfl⟩
  exact ⟨t, ht, by cases ht; decide⟩

/-- The third clause's state is one no run reaches: the code must be recorded already. The words are the four seeks. -/
theorem witness_InvalidSeekModeIsNeverRaised :
    (∃ t, exec .seekInc st16 = .next t) ∧
    (∃ t, step (doing { st16 with err := .invalidSeekMode } [read32 0x04]) = .next t ∧ t.err = .invalidSeekMode) ∧
    (∀ w ∈ [0x02, 0x12, 0x22, 0x32], fieldOp w = 2 ∧ fieldReservedLow w = 0 ∧ w.extractLsb' 8 24 = 0) :=
  ⟨⟨_, rfl⟩, ⟨_, rfl, rfl⟩, by simp [fieldOp, fieldReservedLow]⟩

theorem witness_NoHiddenStateMatters :
    st32.withoutHistory = ({ st32 with result := 7, out := [1], err := .invalidRange, reads := [3] } : State).withoutHistory ∧
    st32 ≠ { st32 with result := 7, out := [1], err := .invalidRange, reads := [3] } ∧
    (∃ t, exec .getBytes st32 = .next t ∧ t.err = .ok) ∧
    (∃ t, exec .eGetBytes st32 = .next t ∧ t.err = .ok) := ⟨by decide +kernel, by decide +kernel, ⟨_, rfl, rfl⟩, ⟨_, rfl, rfl⟩⟩

/-- Steps that write each register a command may write. -/
theorem witness_CommandsWriteOnlyTheirRegisters :
    (∃ t, exec (.reseed 16) { fresh with seedin := toSeed a16 } = .next t ∧ t.seedin ≠ toSeed a16 ∧ t.seeded ≠ fresh.seeded) ∧
    (∃ t, exec .getInt (withRange st16 5 5) = .next t) ∧ (∃ t, exec .getBytes stBusy = .next t ∧ t.out ≠ stBusy.out) :=
  ⟨⟨_, rfl, by decide +kernel, by decide⟩, ⟨_, rfl⟩, ⟨_, rfl, by decide +kernel⟩⟩

theorem witness_SeedIsWrittenOnlyByReplace :
    (∃ t, step (doing st32 [.reset ⟨true, true⟩]) = .next t ∧ t.seed ≠ (doing st32 [.reset ⟨true, true⟩]).seed) ∧
    (∃ t, step (doing st32 [write32 0x00 0x00002001]) = .next t ∧ t.seed ≠ (doing st32 [write32 0x00 0x00002001]).seed) :=
  ⟨⟨_, rfl, by decide +kernel⟩, ⟨_, rfl, by decide +kernel⟩⟩

theorem witness_AssemblerLineLoadsThenLaunches :
    (AsmLine.reseed (rep 0 63) 7).actions.isSome = true ∧
    (∃ acts, (AsmLine.reseed s32 7).actions = some acts ∧ (doing st32 (acts ++ [read32 0x04])).busy = false ∧
      (doing st32 (acts ++ [read32 0x04])).host = acts ++ [read32 0x04]) ∧
    (∃ acts, (AsmLine.getInt (-2) 2).actions = some acts ∧ (doing st16 (acts ++ [])).host = acts ++ []) ∧
    63 < (rep 0 64).length := ⟨by decide +kernel, ⟨_, rfl, rfl, rfl⟩, ⟨_, rfl, rfl⟩, by decide⟩

theorem witness_BootSequenceSeedsTheBlock : a16.length = 16 ∧ s32.length = 32 := by decide

end Sys2Proof.Tests
end

section
/-! What the sampling of the integer commands can do, said once (41_getint.md R137). -/

namespace Sys2Proof.Machine

/-- The draw loop answers an accepted candidate or none, and in both cases only advances the counter (41_getint.md R136, R137). -/
theorem drawLoop_cases (E : Cipher) (min max : Int) (k : Nat) (s : State) :
    ∃ c e, (∃ r, min ≤ r ∧ r ≤ max ∧ drawLoop E min max k s = (some r, advance c e s)) ∨
      drawLoop E min max k s = (none, advance c e s) := by
  obtain ⟨c, e, hstate⟩ := drawLoop_advance E min max k s
  refine ⟨c, e, ?_⟩
  cases hdraw : (drawLoop E min max k s).1 with
  | none => exact .inr (Prod.ext hdraw hstate)
  | some r =>
    obtain ⟨hmin, hmax⟩ := drawLoop_accepted hdraw
    exact .inl ⟨r, hmin, hmax, Prod.ext hdraw hstate⟩

/-- Everything the sampling can do: refuse an inverted range, answer the only value of a range without drawing, or draw and
either accept a value of the range or give up (41_getint.md R137). -/
theorem sampleInt_cases (E : Cipher) (s : State) :
    (operandMax s < operandMin s ∧ sampleInt E s = (.invalidRange, s)) ∨
    (operandMin s = operandMax s ∧ sampleInt E s = (.ok, writeResult (operandMin s) s)) ∨
    (operandMin s < operandMax s ∧ ∃ c e,
      (∃ r, operandMin s ≤ r ∧ r ≤ operandMax s ∧ sampleInt E s = (.ok, writeResult r (advance c e s))) ∨
      sampleInt E s = (.generatorExhausted, advance c e s)) := by
  rcases lt_trichotomy (operandMin s) (operandMax s) with hlt | heq | hgt
  · obtain ⟨c, e, ⟨r, hmin, hmax, hloop⟩ | hloop⟩ :=
      drawLoop_cases E (operandMin s) (operandMax s) Config.maxAttempts s
    · exact .inr (.inr ⟨hlt, c, e, .inl ⟨r, hmin, hmax, by simp [sampleInt, hlt.not_gt, hlt.ne, hloop]⟩⟩)
    · exact .inr (.inr ⟨hlt, c, e, .inr (by simp [sampleInt, hlt.not_gt, hlt.ne, hloop])⟩)
  · exact .inr (.inl ⟨heq, by simp [sampleInt, heq]⟩)
  · exact .inl ⟨hgt, by simp [sampleInt, hgt]⟩

end Sys2Proof.Machine
end

section
/-! Completion of every command (00_scope.md R6): the answer is a next state with a code that is raised, and what belongs to
the host is untouched. -/

namespace Sys2Proof.Machine

/-- The completion codes a command can end with: all of 60_exceptions.md R190 but the reserved `InvalidSeekMode` (R194). -/
def raisedCodes : List CompletionCode :=
  [.ok, .invalidSeedLength, .invalidRange, .generatorExhausted, .notSeeded, .illegalCommand]

/-- The answer is a next state with a code that is raised, and the host's pending actions and read words are those of `s`. -/
def CompletesFrom (s : State) (a : Answer) : Prop :=
  ∃ t, a = .next t ∧ t.host = s.host ∧ t.reads = s.reads ∧ t.err ∈ raisedCodes

/-! ## How the shared ends and tests of a command complete -/

theorem completesFrom_raise {s s' : State} {c : CompletionCode} (hhost : s'.host = s.host) (hreads : s'.reads = s.reads)
    (hc : c ∈ raisedCodes) : CompletesFrom s (raise c s') := ⟨_, rfl, hhost, hreads, hc⟩

theorem completesFrom_complete {s s' : State} (hhost : s'.host = s.host) (hreads : s'.reads = s.reads) :
    CompletesFrom s (complete s') :=
  completesFrom_raise (c := .ok) hhost hreads (by decide)

theorem completesFrom_completeWith {s s' : State} (b : ByteString) (hhost : s'.host = s.host)
    (hreads : s'.reads = s.reads) : CompletesFrom s (completeWith b s') := completesFrom_complete hhost hreads

theorem completesFrom_whenSeeded {s : State} {body : Answer} (hbody : CompletesFrom s body) :
    CompletesFrom s (whenSeeded s body) := by
  obtain ⟨-, hfail⟩ | ⟨-, hgo⟩ := whenSeeded_cases s body
  · exact hfail ▸ completesFrom_raise (c := .notSeeded) rfl rfl (by decide)
  · rwa [hgo]

theorem completesFrom_whenErasable {s : State} {body : Answer} (hbody : CompletesFrom s body) :
    CompletesFrom s (whenErasable s body) := by
  obtain ⟨-, hfail⟩ | ⟨-, -, hfail⟩ | ⟨-, -, hgo⟩ := whenErasable_cases s body
  · exact hfail ▸ completesFrom_raise (c := .notSeeded) rfl rfl (by decide)
  · exact hfail ▸ completesFrom_raise (c := .illegalCommand) rfl rfl (by decide)
  · rwa [hgo]

/-! ## The host's fields through the shared operations -/

@[simp] theorem keystreamRequest_host (E : Cipher) (n : Nat) (s : State) : (keystreamRequest E n s).2.host = s.host := by
  obtain ⟨e, he⟩ := keystreamRequest_advance E n s
  rw [he, advance_host]

@[simp] theorem keystreamRequest_reads (E : Cipher) (n : Nat) (s : State) : (keystreamRequest E n s).2.reads = s.reads := by
  obtain ⟨e, he⟩ := keystreamRequest_advance E n s
  rw [he, advance_reads]

/-! ## The commands -/

theorem seekTo_completes (s : State) : CompletesFrom s (seekTo s) := completesFrom_complete rfl rfl

theorem seekBy_completes (s : State) : CompletesFrom s (seekBy s) := completesFrom_complete rfl rfl

theorem execReseed_completes (slen : Nat) (s : State) : CompletesFrom s (execReseed slen s) := by
  unfold execReseed
  cases keyLenOfSeed slen with
  | none => exact completesFrom_raise rfl rfl (by decide)
  | some k => exact completesFrom_complete (by simp) (by simp)

theorem getBytes_completes (E : Cipher) (s : State) : CompletesFrom s (getBytes E s) :=
  completesFrom_whenSeeded
    (completesFrom_completeWith _ (keystreamRequest_host E (operandLen s) s) (keystreamRequest_reads E (operandLen s) s))

theorem eGetBytes_completes (E : Cipher) (s : State) : CompletesFrom s (eGetBytes E s) :=
  completesFrom_whenErasable (completesFrom_completeWith _ (by simp) (by simp))

theorem getInt_completes (E : Cipher) (s : State) : CompletesFrom s (getInt E s) := by
  refine completesFrom_whenSeeded ?_
  obtain ⟨-, h⟩ | ⟨-, h⟩ | ⟨-, c, e, ⟨r, -, -, h⟩ | h⟩ := sampleInt_cases E s <;> rw [h]
  · exact completesFrom_raise rfl rfl (by decide)
  · exact completesFrom_complete rfl rfl
  · exact completesFrom_complete rfl rfl
  · exact completesFrom_raise rfl rfl (by decide)

theorem eGetInt_completes (E : Cipher) (s : State) : CompletesFrom s (eGetInt E s) := by
  refine completesFrom_whenErasable ?_
  obtain ⟨-, h⟩ | ⟨-, h⟩ | ⟨-, c, e, ⟨r, -, -, h⟩ | h⟩ := sampleInt_cases E s <;> rw [h]
  · exact completesFrom_raise rfl rfl (by decide)
  · exact completesFrom_complete (by simp) (by simp)
  · exact completesFrom_complete (by simp) (by simp)
  · exact completesFrom_raise rfl rfl (by decide)

/-- Settles O11, command by command: each ends in `raise` or `complete` behind its tests, on a state that the shared
operations have left with the host's fields of `s`. -/
theorem everyCommandCompletes : Obligations.EveryCommandCompletes := by
  intro i s
  cases i with
  | reseed slen => exact execReseed_completes slen s
  | seekSet => exact completesFrom_whenSeeded (seekTo_completes s)
  | seekInc => exact completesFrom_whenSeeded (seekBy_completes s)
  | getBytes => exact getBytes_completes Config.cipherE s
  | getInt => exact getInt_completes Config.cipherE s
  | eSeekSet => exact completesFrom_whenErasable (seekTo_completes s)
  | eSeekInc => exact completesFrom_whenErasable (seekBy_completes s)
  | eGetBytes => exact eGetBytes_completes Config.cipherE s
  | eGetInt => exact eGetInt_completes Config.cipherE s

end Sys2Proof.Machine
end

section
/-! The effect of a command as data. A command reads nothing but the stream state, the operands and `CAP`, so what it does is
one `Effect`, the same for all states that agree on those (10_state.md R39); the frames, the invariant and the
noninterference of the commands are read off the effects it may have. -/

namespace Sys2Proof.Machine

/-- What a command does to the state it is launched on. -/
inductive Effect where
  /-- Only the completion code changes. -/
  | fail (c : CompletionCode)
  /-- A `RESEED` of no legal length: the staging register is cleared. -/
  | clear
  /-- A `RESEED` of a legal length. -/
  | install (seed : SeedBytes) (k : KeyLen) (counter : Counter)
  /-- A seek. -/
  | seek (counter : Counter)
  /-- `GETBYTES`: the counter advances and bytes wait. -/
  | output (counter : Counter) (events : List PortEvent) (bytes : ByteString)
  /-- `GETINT` with an accepted value. -/
  | integer (counter : Counter) (events : List PortEvent) (r : Int)
  /-- An integer command whose draws are all rejected. -/
  | exhaust (counter : Counter) (events : List PortEvent)
  /-- `E.GETBYTES`: bytes wait, and others become the seed. -/
  | eraseOutput (events : List PortEvent) (bytes material : ByteString)
  /-- `E.GETINT` with an accepted value: other bytes become the seed. -/
  | eraseInteger (events : List PortEvent) (r : Int) (material : ByteString)

/-- The completion code of an effect. -/
def Effect.code : Effect → CompletionCode
  | .fail c => c
  | .clear => .invalidSeedLength
  | .exhaust _ _ => .generatorExhausted
  | .install _ _ _ | .seek _ | .output _ _ _ | .integer _ _ _ | .eraseOutput _ _ _ | .eraseInteger _ _ _ => .ok

/-- What an effect writes besides the completion code. -/
def Effect.write (f : Effect) (s : State) : State :=
  match f with
  | .fail _ => s
  | .clear => clearStaging s
  | .install seed k counter => clearStaging { replaceStream seed k counter s with seeded := true }
  | .seek counter => advance counter [] s
  | .output counter events bytes => { advance counter events s with out := bytes }
  | .integer counter events r => writeResult r (advance counter events s)
  | .exhaust counter events => advance counter events s
  | .eraseOutput events bytes material => { eraseWith material (advance 0 events s) with out := bytes }
  | .eraseInteger events r material => eraseWith material (writeResult r (advance 0 events s))

/-- The state an effect ends in. -/
def Effect.apply (f : Effect) (s : State) : State := { f.write s with err := f.code }

/-! ## What no effect writes, and what one writes whatever the history -/

@[simp] theorem Effect.apply_err (f : Effect) (s : State) : (f.apply s).err = f.code := rfl
@[simp] theorem Effect.apply_len (f : Effect) (s : State) : (f.apply s).len = s.len := by cases f <;> rfl
@[simp] theorem Effect.apply_pos (f : Effect) (s : State) : (f.apply s).pos = s.pos := by cases f <;> rfl
@[simp] theorem Effect.apply_minReg (f : Effect) (s : State) : (f.apply s).minReg = s.minReg := by cases f <;> rfl
@[simp] theorem Effect.apply_maxReg (f : Effect) (s : State) : (f.apply s).maxReg = s.maxReg := by cases f <;> rfl
@[simp] theorem Effect.apply_cap (f : Effect) (s : State) : (f.apply s).cap = s.cap := by cases f <;> rfl
@[simp] theorem Effect.apply_errPrev (f : Effect) (s : State) : (f.apply s).errPrev = s.errPrev := by cases f <;> rfl
@[simp] theorem Effect.apply_host (f : Effect) (s : State) : (f.apply s).host = s.host := by cases f <;> rfl
@[simp] theorem Effect.apply_reads (f : Effect) (s : State) : (f.apply s).reads = s.reads := by cases f <;> rfl

/-- The codes recorded before a command reach nothing but `errPrev` (10_state.md R35). -/
theorem Effect.apply_codes (f : Effect) (s : State) (e e' : CompletionCode) :
    f.apply { s with err := e, errPrev := e' } = { f.apply s with errPrev := e' } := by
  cases f <;> rfl

/-- What an effect leaves beside the history is decided by what stood beside the history (10_state.md R39). -/
theorem Effect.apply_withoutHistory (f : Effect) (s : State) :
    (f.apply s).withoutHistory = { f.apply s.withoutHistory with err := .ok, result := 0, out := [], port := [] } := by
  cases f <;> rfl

/-! ## Which effects a command may have -/

/-- The effects a command may have from a state, with the tests each has passed (60_exceptions.md R197, R198). -/
inductive MayHave (s : State) : Instr → Effect → Prop
  | notSeeded {i} : i.isReseed = false → s.seeded = false → MayHave s i (.fail .notSeeded)
  | shortKey {i} : i.isErasure = true → s.seeded = true → s.keylen = .bits128 → MayHave s i (.fail .illegalCommand)
  | invalidRange {i} : i = .getInt ∨ i = .eGetInt → s.seeded = true → MayHave s i (.fail .invalidRange)
  | exhaust {i} (c e) : i = .getInt ∨ i = .eGetInt → s.seeded = true → MayHave s i (.exhaust c e)
  | badLength {slen} : keyLenOfSeed slen = none → MayHave s (.reseed slen) .clear
  | reseed {slen k} : keyLenOfSeed slen = some k →
      MayHave s (.reseed slen) (.install (toSeed (operandSeed slen s)) k (operandPos s))
  | seek {i} (c) : i ∈ [.seekSet, .seekInc, .eSeekSet, .eSeekInc] → s.seeded = true → MayHave s i (.seek c)
  | getBytes (c e b) : s.seeded = true → MayHave s .getBytes (.output c e b)
  | getInt (c e r) : s.seeded = true → MayHave s .getInt (.integer c e r)
  | eGetBytes (e b m) : s.seeded = true → s.keylen = .bits256 → MayHave s .eGetBytes (.eraseOutput e b m)
  | eGetInt (e r m) : s.seeded = true → s.keylen = .bits256 → MayHave s .eGetInt (.eraseInteger e r m)

/-- On `s` and on every state with the same stream state, operands and `CAP`, a meaning of the command has one and the same
effect, and it is one the command may have from `s`. -/
def HasEffect (i : Instr) (s : State) (meaning : State → Answer) : Prop :=
  ∃ f, MayHave s i f ∧ ∀ s', s.withoutHistory = s'.withoutHistory → meaning s' = .next (f.apply s')

/-! ## States that agree beside the history -/

/-- States that agree beside the history hold the same stream state, operands and `CAP`. -/
theorem withoutHistory_eq_iff {s s' : State} : s.withoutHistory = s'.withoutHistory ↔
    s.seeded = s'.seeded ∧ s.seed = s'.seed ∧ s.keylen = s'.keylen ∧ s.ctr = s'.ctr ∧ s.bsel = s'.bsel ∧ s.len = s'.len ∧
    s.pos = s'.pos ∧ s.minReg = s'.minReg ∧ s.maxReg = s'.maxReg ∧ s.seedin = s'.seedin ∧ s.cap = s'.cap := by
  simp [State.ext_iff, State.withoutHistory]

/-- An advance keeps the agreement. -/
theorem withoutHistory_advance {s s' : State} (c : Counter) (e : List PortEvent)
    (h : s.withoutHistory = s'.withoutHistory) : (advance c e s).withoutHistory = (advance c e s').withoutHistory :=
  congrArg (fun u => { u with ctr := c }) h

/-- Writing `RESULT` keeps the agreement. -/
theorem withoutHistory_writeResult {s s' : State} (r : Int)
    (h : s.withoutHistory = s'.withoutHistory) : (writeResult r s).withoutHistory = (writeResult r s').withoutHistory := h

/-- A keystream request gives the same bytes and the same advance (40_getbytes.md R107). -/
theorem keystreamRequest_of_withoutHistory (E : Cipher) (n : Nat) (s : State) :
    ∃ b c e, ∀ s', s.withoutHistory = s'.withoutHistory → keystreamRequest E n s' = (b, advance c e s') := by
  by_cases hn : n = 0
  · refine ⟨[], s.ctr, [], fun s' h => ?_⟩
    obtain ⟨-, -, -, hctr, -⟩ := withoutHistory_eq_iff.mp h
    rw [hctr, advance_self, keystreamRequest, if_pos hn]
  · refine ⟨(keystreamRequest E n s).1, s.ctr + BitVec.ofNat 128 (ceilDiv n Config.block),
      [⟨s.keylen, portOp s.bsel s.ctr n⟩], fun s' h => ?_⟩
    obtain ⟨-, hseed, hkeylen, hctr, hbsel, -⟩ := withoutHistory_eq_iff.mp h
    simp only [keystreamRequest, hn, if_false, State.key, hseed, hkeylen, hctr, hbsel]

/-- A draw loop answers the same and makes the same advance (41_getint.md R137). -/
theorem drawLoop_of_withoutHistory (E : Cipher) (min max : Int) (k : Nat) (s : State) :
    ∃ o c e, ∀ s', s.withoutHistory = s'.withoutHistory → drawLoop E min max k s' = (o, advance c e s') := by
  induction k generalizing s with
  | zero =>
    refine ⟨none, s.ctr, [], fun s' h => ?_⟩
    obtain ⟨-, -, -, hctr, -⟩ := withoutHistory_eq_iff.mp h
    rw [hctr, advance_self, drawLoop]
  | succ k ih =>
    obtain ⟨b, c, e, hreq⟩ :=
      keystreamRequest_of_withoutHistory E (rangeAnalysis Config.nativeWidth min max).nbytes s
    obtain ⟨o, c', e', hloop⟩ := ih (advance c e s)
    by_cases hacc : accepts min max (candidateOf Config.nativeWidth (rangeAnalysis Config.nativeWidth min max) min
        (drawValue (rangeAnalysis Config.nativeWidth min max) b))
    · exact ⟨_, c, e, fun s' h => by simp only [drawLoop, hreq s' h, hacc, if_true]; rfl⟩
    · refine ⟨o, c', e ++ e', fun s' h => ?_⟩
      simp only [drawLoop, hreq s' h, hacc, hloop _ (withoutHistory_advance c e h), advance_advance]
      rfl

/-- `sampleInt_cases` for all such states at once: an inverted range, an accepted value or no value after the same draws
(41_getint.md R137). -/
theorem sampleInt_of_withoutHistory (E : Cipher) (s : State) :
    (∀ s', s.withoutHistory = s'.withoutHistory → sampleInt E s' = (.invalidRange, s')) ∨
    ∃ c e, (∃ r, ∀ s', s.withoutHistory = s'.withoutHistory → sampleInt E s' = (.ok, writeResult r (advance c e s'))) ∨
      ∀ s', s.withoutHistory = s'.withoutHistory → sampleInt E s' = (.generatorExhausted, advance c e s') := by
  have hrange : ∀ s', s.withoutHistory = s'.withoutHistory →
      operandMin s' = operandMin s ∧ operandMax s' = operandMax s ∧ s'.ctr = s.ctr := fun s' h => by
    obtain ⟨-, -, -, hctr, -, -, -, hmin, hmax, -⟩ := withoutHistory_eq_iff.mp h
    simp only [operandMin, operandMax, hmin, hmax, hctr, and_self]
  rcases lt_trichotomy (operandMin s) (operandMax s) with hlt | heq | hgt
  · obtain ⟨o, c, e, hloop⟩ := drawLoop_of_withoutHistory E (operandMin s) (operandMax s) Config.maxAttempts s
    refine .inr ⟨c, e, ?_⟩
    cases o with
    | some r =>
      refine .inl ⟨r, fun s' h => ?_⟩
      obtain ⟨hmin, hmax, -⟩ := hrange s' h
      simp [sampleInt, hmin, hmax, hlt.not_gt, hlt.ne, hloop s' h]
    | none =>
      refine .inr fun s' h => ?_
      obtain ⟨hmin, hmax, -⟩ := hrange s' h
      simp [sampleInt, hmin, hmax, hlt.not_gt, hlt.ne, hloop s' h]
  · refine .inr ⟨s.ctr, [], .inl ⟨operandMin s, fun s' h => ?_⟩⟩
    obtain ⟨hmin, hmax, hctr⟩ := hrange s' h
    rw [← hctr, advance_self]
    simp [sampleInt, hmin, hmax, heq]
  · refine .inl fun s' h => ?_
    obtain ⟨hmin, hmax, -⟩ := hrange s' h
    simp [sampleInt, hmin, hmax, hgt]

/-! ## The effect of each command -/

theorem hasEffect_whenSeeded {i : Instr} {s : State} {body : State → Answer} (hi : i.isReseed = false)
    (hbody : s.seeded = true → HasEffect i s body) : HasEffect i s fun s' => whenSeeded s' (body s') := by
  cases hs : s.seeded with
  | false =>
    refine ⟨_, .notSeeded hi hs, fun s' h => ?_⟩
    obtain ⟨hseeded, -⟩ := withoutHistory_eq_iff.mp h
    exact whenSeeded_of_unseeded (hseeded ▸ hs)
  | true =>
    obtain ⟨f, hf, heff⟩ := hbody hs
    refine ⟨f, hf, fun s' h => ?_⟩
    obtain ⟨hseeded, -⟩ := withoutHistory_eq_iff.mp h
    exact (whenSeeded_of_seeded (hseeded ▸ hs)).trans (heff s' h)

/-- There is no erasure reseed (30_encoding.md R81). -/
theorem isReseed_of_isErasure {i : Instr} (h : i.isErasure = true) : i.isReseed = false := by
  cases i <;> simp_all [Instr.isErasure, Instr.isReseed]

theorem hasEffect_whenErasable {i : Instr} {s : State} {body : State → Answer} (hi : i.isErasure = true)
    (hbody : s.seeded = true → s.keylen = .bits256 → HasEffect i s body) :
    HasEffect i s fun s' => whenErasable s' (body s') := by
  refine hasEffect_whenSeeded (isReseed_of_isErasure hi) fun hs => ?_
  cases hk : s.keylen with
  | bits128 =>
    refine ⟨_, .shortKey hi hs hk, fun s' h => ?_⟩
    obtain ⟨-, -, hkeylen, -⟩ := withoutHistory_eq_iff.mp h
    exact if_neg (by simp [← hkeylen, hk])
  | bits256 =>
    obtain ⟨f, hf, heff⟩ := hbody hs hk
    refine ⟨f, hf, fun s' h => ?_⟩
    obtain ⟨-, -, hkeylen, -⟩ := withoutHistory_eq_iff.mp h
    exact (if_pos (hkeylen ▸ hk)).trans (heff s' h)

theorem seekTo_hasEffect {i : Instr} {s : State} (hi : i ∈ [.seekSet, .seekInc, .eSeekSet, .eSeekInc])
    (hs : s.seeded = true) : HasEffect i s seekTo := by
  refine ⟨_, .seek (operandPos s) hi hs, fun s' h => ?_⟩
  obtain ⟨-, -, -, -, -, -, hpos, -⟩ := withoutHistory_eq_iff.mp h
  simp [seekTo, complete, operandPos, hpos, Effect.apply, Effect.write, Effect.code, advance]

theorem seekBy_hasEffect {i : Instr} {s : State} (hi : i ∈ [.seekSet, .seekInc, .eSeekSet, .eSeekInc])
    (hs : s.seeded = true) : HasEffect i s seekBy := by
  refine ⟨_, .seek (s.ctr + operandPos s) hi hs, fun s' h => ?_⟩
  obtain ⟨-, -, -, hctr, -, -, hpos, -⟩ := withoutHistory_eq_iff.mp h
  simp [seekBy, complete, operandPos, hpos, hctr, Effect.apply, Effect.write, Effect.code, advance]

theorem execReseed_hasEffect (slen : Nat) (s : State) : HasEffect (.reseed slen) s (execReseed slen) := by
  cases hk : keyLenOfSeed slen with
  | none => exact ⟨_, .badLength hk, fun s' _ => by simp only [execReseed, hk]; rfl⟩
  | some k =>
    refine ⟨_, .reseed hk, fun s' h => ?_⟩
    obtain ⟨-, -, -, -, -, -, hpos, -, -, hseedin, -⟩ := withoutHistory_eq_iff.mp h
    simp only [execReseed, hk, operandSeed, operandPos, hpos, hseedin]
    rfl

theorem getBytes_hasEffect (E : Cipher) (s : State) : HasEffect .getBytes s (getBytes E) := by
  refine hasEffect_whenSeeded rfl fun hs => ?_
  obtain ⟨b, c, e, hreq⟩ := keystreamRequest_of_withoutHistory E (operandLen s) s
  refine ⟨_, .getBytes c e b hs, fun s' h => ?_⟩
  obtain ⟨-, -, -, -, -, hlen, -⟩ := withoutHistory_eq_iff.mp h
  have hn : operandLen s' = operandLen s := by rw [operandLen, operandLen, hlen]
  simp only [hn, hreq s' h]
  rfl

theorem eGetBytes_hasEffect (E : Cipher) (s : State) : HasEffect .eGetBytes s (eGetBytes E) := by
  refine hasEffect_whenErasable rfl fun hs hk => ?_
  obtain ⟨b, c, e, hreq⟩ := keystreamRequest_of_withoutHistory E (operandLen s + Config.eraseLen) s
  refine ⟨_, .eGetBytes e (b.take (operandLen s)) (b.drop (operandLen s)) hs hk, fun s' h => ?_⟩
  obtain ⟨-, -, -, -, -, hlen, -⟩ := withoutHistory_eq_iff.mp h
  have hn : operandLen s' = operandLen s := by rw [operandLen, operandLen, hlen]
  simp only [hn, hreq s' h]
  rfl

theorem getInt_hasEffect (E : Cipher) (s : State) : HasEffect .getInt s (getInt E) := by
  refine hasEffect_whenSeeded rfl fun hs => ?_
  obtain hsample | ⟨c, e, ⟨r, hsample⟩ | hsample⟩ := sampleInt_of_withoutHistory E s
  · exact ⟨_, .invalidRange (.inl rfl) hs, fun s' h => by simp only [hsample s' h]; rfl⟩
  · exact ⟨_, .getInt c e r hs, fun s' h => by simp only [hsample s' h]; rfl⟩
  · exact ⟨_, .exhaust c e (.inl rfl) hs, fun s' h => by simp only [hsample s' h]; rfl⟩

theorem eGetInt_hasEffect (E : Cipher) (s : State) : HasEffect .eGetInt s (eGetInt E) := by
  refine hasEffect_whenErasable rfl fun hs hk => ?_
  obtain hsample | ⟨c, e, ⟨r, hsample⟩ | hsample⟩ := sampleInt_of_withoutHistory E s
  · exact ⟨_, .invalidRange (.inr rfl) hs, fun s' h => by simp only [hsample s' h]; rfl⟩
  · obtain ⟨m, c', e', hreq⟩ := keystreamRequest_of_withoutHistory E Config.eraseLen (writeResult r (advance c e s))
    refine ⟨_, .eGetInt (e ++ e') r m hs hk, fun s' h => ?_⟩
    simp only [hsample s' h, hreq _ (withoutHistory_writeResult r (withoutHistory_advance c e h))]
    simp [complete, Effect.apply, Effect.write, Effect.code, eraseWith, replaceStream, writeResult, advance]
  · exact ⟨_, .exhaust c e (.inr rfl) hs, fun s' h => by simp only [hsample s' h]; rfl⟩

/-- Everything a command can do, on a state and on all that agree with it beside the history. -/
theorem exec_hasEffect (i : Instr) (s : State) : HasEffect i s (exec i) := by
  cases i with
  | reseed slen => exact execReseed_hasEffect slen s
  | seekSet => exact hasEffect_whenSeeded rfl (seekTo_hasEffect (by decide))
  | seekInc => exact hasEffect_whenSeeded rfl (seekBy_hasEffect (by decide))
  | getBytes => exact getBytes_hasEffect Config.cipherE s
  | getInt => exact getInt_hasEffect Config.cipherE s
  | eSeekSet => exact hasEffect_whenErasable rfl fun hs _ => seekTo_hasEffect (by decide) hs
  | eSeekInc => exact hasEffect_whenErasable rfl fun hs _ => seekBy_hasEffect (by decide) hs
  | eGetBytes => exact eGetBytes_hasEffect Config.cipherE s
  | eGetInt => exact eGetInt_hasEffect Config.cipherE s

/-- A command that answers `t` has an effect it may have, and `t` is that effect's end. -/
theorem exec_eq_next {i : Instr} {s t : State} (h : exec i s = .next t) : ∃ f, MayHave s i f ∧ t = f.apply s := by
  obtain ⟨f, hf, heff⟩ := exec_hasEffect i s
  rw [heff s rfl] at h
  cases h
  exact ⟨f, hf, rfl⟩

end Sys2Proof.Machine
end

section
/-! One step of the host read backwards: what the next state is, by the kind of the host's next action. -/

namespace Sys2Proof.Machine

/-! ## Which register an offset names (20_memory.md R51) -/

theorem accessedReg_eq_some {offset width : Nat} {r : HostReg} :
    accessedReg offset width = some r ↔ width = 4 ∧ regAt offset = some r := by
  simp [accessedReg]

@[simp] theorem accessedReg_word (offset : Nat) : accessedReg offset 4 = regAt offset := rfl

theorem regAt_ctr (k : Fin 4) : regAt (0x60 + 4 * k.val) = some (.ctr k) := by
  revert k; decide

theorem regAt_seedin (k : Fin 8) : regAt (0x40 + 4 * k.val) = some (.seedin k) := by
  revert k; decide

/-- `CMD` stands at offset 0 only. -/
theorem regAt_eq_cmd {offset : Nat} (h : regAt offset = some .cmd) : offset = 0 := by
  unfold regAt at h
  split at h
  · simp at h
  · split at h <;> simp at h
    omega

/-! ## A read and a write, forwards (20_memory.md R54, R55) -/

theorem hostRead_of_regAt {s : State} {offset : Nat} {r : HostReg} (hr : regAt offset = some r)
    (hidle : (s.busy && readNeedsIdle r) = false) :
    hostRead offset 4 s = .next { afterRead r s with reads := s.reads ++ [readValue r s] } := by
  simp only [hostRead, accessedReg_word, hr, hidle, Bool.false_eq_true, if_false]

theorem hostWrite_of_regAt {s : State} {offset : Nat} {r : HostReg} {w : Word} (hr : regAt offset = some r)
    (hidle : (s.busy && writeNeedsIdle r) = false) (hcmd : r ≠ .cmd) :
    hostWrite offset 4 w s = .next (writeReg r w s) := by
  cases r <;> simp_all [hostWrite]

theorem step_of_action {s : State} {a : HostAction} {rest : List HostAction} (h : s.host = a :: rest) :
    step s = hostAct a { s with host := rest } := by
  simp only [step, h]

theorem step_of_read {s : State} {offset : Nat} {r : HostReg} {rest : List HostAction}
    (h : s.host = .read offset 4 :: rest) (hr : regAt offset = some r) (hidle : (s.busy && readNeedsIdle r) = false) :
    step s = .next { afterRead r { s with host := rest } with reads := s.reads ++ [readValue r s] } := by
  have hvalue : readValue r { s with host := rest } = readValue r s := by cases r <;> rfl
  rw [step_of_action h, ← hvalue]
  exact hostRead_of_regAt hr hidle

/-- A write to a register that takes none is ignored, busy or not (20_memory.md R55). -/
theorem step_of_ignored_write {s : State} {offset : Nat} {r : HostReg} {w : Word} {rest : List HostAction}
    (h : s.host = .write offset 4 w :: rest) (hr : regAt offset = some r) (hidle : writeNeedsIdle r = false) :
    step s = .next { s with host := rest } := by
  have hignored : writeReg r w { s with host := rest } = { s with host := rest } ∧ r ≠ .cmd := by
    cases r <;> simp_all [writeReg, writeNeedsIdle]
  rw [step_of_action h]
  exact (hostWrite_of_regAt hr (by simp [hidle]) hignored.2).trans (congrArg _ hignored.1)

theorem run_succ_of_step {s t : State} {k : Nat} (h : step s = .next t) :
    Sys2Proof.core.run (k + 1) s = Sys2Proof.core.run k t := by
  have hstep : Sys2Proof.core.step s = .next t := h
  simp only [Host.Core.run, hstep]

/-! ## The step, backwards -/

/-- Everything a step that answers a next state can do (20_memory.md R64, R67). -/
inductive StepsTo (s : State) : State → Prop
  | idle : s.host = [] → StepsTo s s
  | reset {caps rest} : s.host = .reset caps :: rest →
      StepsTo s { State.resetWith caps with host := rest, reads := s.reads }
  | read {offset r rest} : s.host = .read offset 4 :: rest → regAt offset = some r →
      StepsTo s { afterRead r { s with host := rest } with reads := s.reads ++ [readValue r { s with host := rest }] }
  | write {offset w r rest} : s.host = .write offset 4 w :: rest → regAt offset = some r → r ≠ .cmd →
      StepsTo s (writeReg r w { s with host := rest })
  | illegalWord {w rest e} : s.host = .write 0x00 4 w :: rest → s.busy = false → decode w = .error e →
      StepsTo s { beginCommand { s with host := rest } with err := .illegalCommand }
  | command {w rest i f} : s.host = .write 0x00 4 w :: rest → s.busy = false → decode w = .ok i →
      MayHave (beginCommand { s with host := rest }) i f → StepsTo s (f.apply (beginCommand { s with host := rest }))

theorem hostRead_eq_next {s t : State} {offset width : Nat} (h : hostRead offset width s = .next t) :
    ∃ r, width = 4 ∧ regAt offset = some r ∧ t = { afterRead r s with reads := s.reads ++ [readValue r s] } := by
  cases hr : accessedReg offset width with
  | none => simp [hostRead, hr] at h
  | some r =>
    obtain ⟨hwidth, hreg⟩ := accessedReg_eq_some.mp hr
    simp only [hostRead, hr] at h
    split at h
    · cases h
    · cases h
      exact ⟨r, hwidth, hreg, rfl⟩

theorem hostWrite_eq_next {s t : State} {offset width : Nat} {w : Word} (h : hostWrite offset width w s = .next t) :
    ∃ r, width = 4 ∧ regAt offset = some r ∧
      ((r = .cmd ∧ s.busy = false ∧ launch w s = .next t) ∨ (r ≠ .cmd ∧ t = writeReg r w s)) := by
  cases hr : accessedReg offset width with
  | none => simp [hostWrite, hr] at h
  | some r =>
    obtain ⟨rfl, hreg⟩ := accessedReg_eq_some.mp hr
    refine ⟨r, rfl, hreg, ?_⟩
    cases hidle : s.busy && writeNeedsIdle r with
    | true => simp [hostWrite, hreg, hidle] at h
    | false =>
      by_cases hcmd : r = .cmd
      · subst hcmd
        refine .inl ⟨rfl, by simpa [writeNeedsIdle] using hidle, ?_⟩
        simpa only [hostWrite, accessedReg_word, hreg, hidle, Bool.false_eq_true, if_false] using h
      · rw [hostWrite_of_regAt hreg hidle hcmd] at h
        cases h
        exact .inr ⟨hcmd, rfl⟩

/-- A step that answers `t` does one of the things `StepsTo` lists. -/
theorem step_eq_next {s t : State} (h : step s = .next t) : StepsTo s t := by
  cases hhost : s.host with
  | nil =>
    simp only [step, hhost] at h
    cases h
    exact .idle hhost
  | cons a rest =>
    rw [step_of_action hhost] at h
    cases a with
    | read offset width =>
      obtain ⟨r, rfl, hr, rfl⟩ := hostRead_eq_next h
      exact .read hhost hr
    | write offset width w =>
      obtain ⟨r, rfl, hr, ⟨rfl, hbusy, hlaunch⟩ | ⟨hcmd, rfl⟩⟩ := hostWrite_eq_next h
      · obtain rfl := regAt_eq_cmd hr
        cases hdecode : decode w with
        | error e =>
          simp only [launch, hdecode] at hlaunch
          cases hlaunch
          exact .illegalWord hhost hbusy hdecode
        | ok i =>
          simp only [launch, hdecode] at hlaunch
          obtain ⟨f, hf, rfl⟩ := exec_eq_next hlaunch
          exact .command hhost hbusy hdecode hf
      · exact .write hhost hr hcmd
    | reset caps =>
      cases h
      exact .reset hhost

end Sys2Proof.Machine
end

section
/-! What a command may write and on what it depends (92_eei_decisions.md D25, 10_state.md R35, R39): read off the effects it
may have. -/

namespace Sys2Proof.Machine

/-! ## Which command wrote a register that changed -/

section EffectFrames
variable {s u : State} {i : Instr} {f : Effect}

theorem MayHave.of_seedin_ne (hf : MayHave s i f) (h : (f.apply u).seedin ≠ u.seedin) : i.isReseed = true := by
  cases hf with
  | badLength | reseed => rfl
  | _ => exact absurd rfl h

theorem MayHave.of_seeded_ne (hf : MayHave s i f) (h : (f.apply u).seeded ≠ u.seeded) :
    i.isReseed = true ∧ f.code = .ok := by
  cases hf with
  | reseed => exact ⟨rfl, rfl⟩
  | _ => exact absurd rfl h

theorem MayHave.of_result_ne (hf : MayHave s i f) (h : (f.apply u).result ≠ u.result) :
    (i = .getInt ∨ i = .eGetInt) ∧ f.code = .ok := by
  cases hf with
  | getInt => exact ⟨.inl rfl, rfl⟩
  | eGetInt => exact ⟨.inr rfl, rfl⟩
  | _ => exact absurd rfl h

theorem MayHave.of_out_ne (hf : MayHave s i f) (h : (f.apply u).out ≠ u.out) :
    (i = .getBytes ∨ i = .eGetBytes) ∧ f.code = .ok := by
  cases hf with
  | getBytes => exact ⟨.inl rfl, rfl⟩
  | eGetBytes => exact ⟨.inr rfl, rfl⟩
  | _ => exact absurd rfl h

theorem MayHave.of_key_ne (hf : MayHave s i f)
    (h : (f.apply u).seed ≠ u.seed ∨ (f.apply u).keylen ≠ u.keylen ∨ (f.apply u).bsel ≠ u.bsel) :
    (i.isReseed = true ∨ i = .eGetBytes ∨ i = .eGetInt) ∧ f.code = .ok := by
  cases hf with
  | reseed => exact ⟨.inl rfl, rfl⟩
  | eGetBytes => exact ⟨.inr (.inl rfl), rfl⟩
  | eGetInt => exact ⟨.inr (.inr rfl), rfl⟩
  | _ => obtain h | h | h := h <;> exact absurd rfl h

/-! ## What a command that completes with `OK` hands out is the effect's own -/

theorem MayHave.out_of_ok (hf : MayHave s i f) (hok : f.code = .ok) (hi : i = .getBytes ∨ i = .eGetBytes)
    (u u' : State) : (f.apply u).out = (f.apply u').out := by
  cases hf with
  | getBytes | eGetBytes => rfl
  | notSeeded | shortKey | invalidRange | exhaust | badLength => cases hok
  | seek _ hseek => obtain rfl | rfl := hi <;> simp at hseek
  | reseed | getInt | eGetInt => simp at hi

theorem MayHave.result_of_ok (hf : MayHave s i f) (hok : f.code = .ok) (hi : i = .getInt ∨ i = .eGetInt)
    (u u' : State) : (f.apply u).result = (f.apply u').result := by
  cases hf with
  | getInt | eGetInt => rfl
  | notSeeded | shortKey | invalidRange | exhaust | badLength => cases hok
  | seek _ hseek => obtain rfl | rfl := hi <;> simp at hseek
  | reseed | getBytes | eGetBytes => simp at hi

end EffectFrames

/-- Settles O57: the operand registers are outside every effect, and each other register is written by the effects of its own
commands only. -/
theorem commandsWriteOnlyTheirRegisters : Obligations.CommandsWriteOnlyTheirRegisters := by
  intro i s t h
  obtain ⟨f, hf, rfl⟩ := exec_eq_next h
  exact ⟨f.apply_len s, f.apply_pos s, f.apply_minReg s, f.apply_maxReg s, f.apply_cap s, f.apply_errPrev s,
    f.apply_host s, f.apply_reads s, hf.of_seedin_ne, hf.of_seeded_ne, hf.of_result_ne, hf.of_out_ne, hf.of_key_ne⟩

/-- Settles O55: the effect is the same, and the codes recorded before pass through it to `errPrev` only. -/
theorem commandsIgnoreEarlierCodes : Obligations.CommandsIgnoreEarlierCodes := by
  intro i s e e'
  obtain ⟨f, -, heff⟩ := exec_hasEffect i s
  refine ⟨f.apply s, heff s rfl, ?_⟩
  rw [heff { s with err := e, errPrev := e' } rfl, f.apply_codes]

/-- Settles O56: both states undergo one effect, whose code, output and result are its own. -/
theorem noHiddenStateMatters : Obligations.NoHiddenStateMatters := by
  intro i s s' h
  obtain ⟨f, hf, heff⟩ := exec_hasEffect i s
  refine ⟨f.apply s, f.apply s', heff s rfl, heff s' h, rfl, ?_, fun hok hi => hf.out_of_ok hok hi s s',
    fun hok hi => hf.result_of_ok hok hi s s'⟩
  rw [f.apply_withoutHistory, f.apply_withoutHistory, h]

end Sys2Proof.Machine
end

section
/-! The reset values and the invariant (10_state.md R26, R40). -/

namespace Sys2Proof.Machine

/-! ## Seeds and their lengths (10_state.md R22) -/

theorem getElem_toSeed (b : ByteString) (j : Nat) (hj : j < 32) : (toSeed b)[j] = b.getD j 0 := by
  simp [toSeed]

@[simp] theorem getElem_zeroSeed (j : Nat) (hj : j < 32) : zeroSeed[j] = 0 := by simp [zeroSeed]

theorem keyLenOfSeed_eq_some {slen : Nat} {k : KeyLen} :
    keyLenOfSeed slen = some k ↔ slen = 16 ∧ k = .bits128 ∨ slen = 32 ∧ k = .bits256 := by
  unfold keyLenOfSeed
  split
  · simp_all [eq_comm]
  · split <;> simp_all [eq_comm]

theorem keyLenOfSeed_eq_none {slen : Nat} : keyLenOfSeed slen = none ↔ slen ≠ 16 ∧ slen ≠ 32 := by
  by_cases h16 : slen = 16 <;> by_cases h32 : slen = 32 <;> simp [keyLenOfSeed, h16, h32]

theorem length_operandSeed (slen : Nat) (s : State) : (operandSeed slen s).length = min slen 32 := by
  simp [operandSeed]

/-- The seed of a `RESEED` that selects a short key is zero from byte 16 on (42_seek_reseed.md R153). -/
theorem toSeed_operandSeed_padded {slen : Nat} {s : State} (h : keyLenOfSeed slen = some .bits128) (j : Fin 32)
    (hj : 16 ≤ j.val) : (toSeed (operandSeed slen s))[j.val] = 0 := by
  obtain ⟨rfl, -⟩ | ⟨-, hk⟩ := keyLenOfSeed_eq_some.mp h
  · rw [getElem_toSeed, List.getD_eq_default _ _ (by simpa [length_operandSeed] using hj)]
  · cases hk

/-! ## Reset -/

theorem statusWord_resetWith (caps : Caps) : statusWord (State.resetWith caps) = 0 := by
  simp [statusWord, State.busy, State.davail, State.statusErr, bitAt, KeyLen.bit, Backend.bit, CompletionCode.number]

/-- Settles O6, register by register. -/
theorem resetGivesEveryRegisterItsValue : Obligations.ResetGivesEveryRegisterItsValue := by
  refine ⟨rfl, fun caps => ?_⟩
  have hseed : ∀ j : Fin 32, zeroSeed[j.val] = 0 := fun j => getElem_zeroSeed j.val j.isLt
  exact ⟨rfl, hseed, rfl, rfl, rfl, rfl, rfl, rfl, rfl, hseed, rfl, statusWord_resetWith caps, rfl, rfl, rfl, rfl⟩

theorem inv_resetWith (caps : Caps) : (State.resetWith caps).Inv where
  backend_selected := by simp
  short_seed_padded _ j _ := getElem_zeroSeed j.val j.isLt
  unseeded_is_reset _ := ⟨rfl, rfl, rfl, rfl, rfl⟩
  output_after_ok := by simp
  no_invalid_seek_mode := by simp

/-- Settles O7: reset is unseeded, its `SEED` is all zero and nothing waits. -/
theorem resetMeetsTheInvariant : Obligations.ResetMeetsTheInvariant :=
  ⟨inv_resetWith Config.capInputs, inv_resetWith⟩

/-! ## The updates of a command -/

section KeepsInv
variable {s : State} (hs : s.Inv)
include hs

theorem inv_advance (hseeded : s.seeded = true) (c : Counter) (e : List PortEvent) : (advance c e s).Inv :=
  { hs with unseeded_is_reset := fun h => by simp [hseeded] at h }

theorem inv_writeResult (hseeded : s.seeded = true) (r : Int) : (writeResult r s).Inv :=
  { hs with unseeded_is_reset := fun h => by simp [hseeded] at h }

theorem inv_clearStaging : (clearStaging s).Inv := { hs with }

/-- A replace evaluates the backend anew, so it needs only a seed that is zero beyond a short key (10_state.md R26, R27). -/
theorem inv_replaceStream {seed : SeedBytes} {k : KeyLen}
    (hpad : k = .bits128 → ∀ j : Fin 32, 16 ≤ j.val → seed[j.val] = 0) (c : Counter) :
    State.Inv { replaceStream seed k c s with seeded := true } where
  backend_selected _ := rfl
  short_seed_padded := hpad
  unseeded_is_reset h := by simp at h
  output_after_ok h := ⟨(hs.output_after_ok h).1, rfl⟩
  no_invalid_seek_mode := hs.no_invalid_seek_mode

theorem inv_eraseWith (hseeded : s.seeded = true) (b : ByteString) : (eraseWith b s).Inv := by
  have h : State.Inv { eraseWith b s with seeded := true } :=
    inv_replaceStream hs (seed := toSeed b) (k := .bits256) (fun hk => by cases hk) 0
  rwa [← hseeded] at h

theorem inv_beginCommand : (beginCommand s).Inv :=
  { hs with no_invalid_seek_mode := ⟨hs.no_invalid_seek_mode.1, hs.no_invalid_seek_mode.1⟩ }

/-- A code that is raised may be recorded when no output waits (60_exceptions.md R194, R198). -/
theorem inv_raise (hout : s.out = []) {c : CompletionCode} (hc : c ≠ .invalidSeekMode) :
    State.Inv { s with err := c } :=
  { hs with output_after_ok := fun h => absurd hout h, no_invalid_seek_mode := ⟨hc, hs.no_invalid_seek_mode.2⟩ }

/-- Output may be left waiting by a command that completes with `OK` on a seeded SSG (60_exceptions.md R198). -/
theorem inv_completeWith (hseeded : s.seeded = true) (b : ByteString) : State.Inv { s with out := b, err := .ok } :=
  { hs with output_after_ok := fun _ => ⟨rfl, hseeded⟩, no_invalid_seek_mode := ⟨by simp, hs.no_invalid_seek_mode.2⟩ }

/-- Every effect a command may have keeps the invariant, started with no output waiting. -/
theorem inv_apply {i : Instr} {f : Effect} (hf : MayHave s i f) (hout : s.out = []) : (f.apply s).Inv := by
  cases hf with
  | notSeeded | shortKey | invalidRange => exact inv_raise hs hout (by decide)
  | exhaust c e _ hseeded => exact inv_raise (inv_advance hs hseeded c e) hout (by simp [Effect.code])
  | badLength => exact inv_raise (inv_clearStaging hs) hout (by decide)
  | @reseed slen k hk =>
    have hpad : k = .bits128 → ∀ j : Fin 32, 16 ≤ j.val → (toSeed (operandSeed slen s))[j.val] = 0 := by
      rintro rfl
      exact toSeed_operandSeed_padded hk
    exact inv_completeWith (inv_clearStaging (inv_replaceStream hs hpad (operandPos s))) rfl s.out
  | seek c _ hseeded => exact inv_completeWith (inv_advance hs hseeded c []) hseeded s.out
  | getBytes c e b hseeded => exact inv_completeWith (inv_advance hs hseeded c e) hseeded b
  | getInt c e r hseeded => exact inv_completeWith (inv_writeResult (inv_advance hs hseeded c e) hseeded r) hseeded s.out
  | eGetBytes e b m hseeded =>
    exact inv_completeWith (inv_eraseWith (inv_advance hs hseeded 0 e) hseeded m) hseeded b
  | eGetInt e r m hseeded =>
    exact inv_completeWith
      (inv_eraseWith (inv_writeResult (inv_advance hs hseeded 0 e) hseeded r) hseeded m) hseeded s.out

/-! ## The accesses of the host -/

theorem inv_withHost (rest : List HostAction) (reads : List Word) : State.Inv { s with host := rest, reads := reads } :=
  { hs with }

theorem inv_afterRead (r : HostReg) : (afterRead r s).Inv := by
  cases r with
  | dout => exact { hs with output_after_ok := fun h => hs.output_after_ok fun hout => h (by simp [afterRead, hout]) }
  | _ => exact hs

theorem inv_writeReg (r : HostReg) (w : Word) : (writeReg r w s).Inv where
  backend_selected := by simpa using hs.backend_selected
  short_seed_padded := by simpa using hs.short_seed_padded
  unseeded_is_reset := by simpa using hs.unseeded_is_reset
  output_after_ok := by simpa using hs.output_after_ok
  no_invalid_seek_mode := by simpa using hs.no_invalid_seek_mode

end KeepsInv

theorem out_eq_nil_of_not_busy {s : State} (h : s.busy = false) : s.out = [] := by
  simpa [State.busy] using h

/-- Settles O12: the invariant passes through each kind of step, and a command starts with no output waiting. -/
theorem stepKeepsTheInvariant : Obligations.StepKeepsTheInvariant := by
  intro s t hs h
  cases step_eq_next h with
  | idle => exact hs
  | reset => exact inv_withHost (inv_resetWith _) _ _
  | read => exact inv_withHost (inv_afterRead (inv_withHost hs _ s.reads) _) _ _
  | write => exact inv_writeReg (inv_withHost hs _ s.reads) _ _
  | illegalWord _ hbusy =>
    exact inv_raise (inv_beginCommand (inv_withHost hs _ s.reads)) (out_eq_nil_of_not_busy hbusy) (by decide)
  | command _ hbusy _ hf =>
    exact inv_apply (inv_beginCommand (inv_withHost hs _ s.reads)) hf (out_eq_nil_of_not_busy hbusy)

end Sys2Proof.Machine
end

section
/-! The register file: what the views read as, and which steps write a register (10_state.md R21, R31, R33, R36, R37). -/

namespace Sys2Proof.Machine

/-! ## The bits of the views -/

@[simp] theorem getLsbD_bitAt (b : Bool) (k i : Nat) : (bitAt b k).getLsbD i = (decide (i < 32 ∧ i = k) && b) := by
  simp only [bitAt, BitVec.getLsbD_shiftLeft, BitVec.getLsbD_setWidth, BitVec.getLsbD_ofBool]
  grind

@[simp] theorem keylen_bit_eq_true {k : KeyLen} : k.bit = true ↔ k = .bits256 := by cases k <;> decide

@[simp] theorem bsel_bit_eq_true {b : Backend} : b.bit = true ↔ b = .emulated := by cases b <;> decide

theorem busy_eq_true {s : State} : s.busy = true ↔ s.out ≠ [] := by simp [State.busy]

/-- A bit of `STATUS`: those of the flags at their places, those of the code from bit 4 on (10_state.md R33). -/
theorem getLsbD_statusWord (s : State) (i : Nat) (hi : i < 32) : (statusWord s).getLsbD i =
    ((decide (i = 0) && s.busy) || (decide (i = 1) && s.seeded) || (decide (i = 2) && s.keylen.bit) ||
      (decide (i = 3) && s.bsel.bit) || (decide (4 ≤ i) && s.statusErr.number.getLsbD (i - 4)) ||
      (decide (i = 8) && s.davail)) := by
  simp only [statusWord, BitVec.getLsbD_or, getLsbD_bitAt, hi, true_and, BitVec.getLsbD_shiftLeft,
    BitVec.getLsbD_setWidth]
  grind

/-- A bit of `CAP` (10_state.md R37). -/
theorem getLsbD_capWord (s : State) (i : Nat) (hi : i < 32) : (capWord s).getLsbD i =
    ((decide (i = 0) && s.cap.ctr128) || (decide (i = 1) && s.cap.ctr256)) := by
  simp only [capWord, BitVec.getLsbD_or, getLsbD_bitAt, hi, true_and]

/-- Settles O13: each field is read off the bits of `statusWord`; `STATUS` needs no idle SSG and takes no write. -/
theorem statusFieldsReadAsListed : Obligations.StatusFieldsReadAsListed := by
  refine ⟨fun s => ⟨?_, busy_eq_true, ?_, ?_, ?_, ?_, ?_, ?_, ?_, ?_⟩, fun s rest h => ?_, fun s w rest h => ?_⟩
  · rw [getLsbD_statusWord _ _ (by decide)]; simp
  · rw [getLsbD_statusWord _ _ (by decide)]; simp
  · rw [getLsbD_statusWord _ _ (by decide)]; simp
  · rw [getLsbD_statusWord _ _ (by decide)]; simp
  · apply BitVec.eq_of_getLsbD_eq
    intro i hi
    rw [BitVec.getLsbD_extractLsb', getLsbD_statusWord _ _ (by omega)]
    grind
  · intro h
    simp [State.statusErr, State.busy, h]
  · intro h
    simp [State.statusErr, State.busy, h]
  · rw [getLsbD_statusWord _ _ (by decide)]; simp [State.davail]
  · apply BitVec.eq_of_getLsbD_eq
    intro i hi
    rw [BitVec.getLsbD_extractLsb', getLsbD_statusWord _ _ (by omega)]
    grind
  · exact step_of_read h rfl (by simp [readNeedsIdle])
  · exact step_of_ignored_write h rfl rfl

/-- Settles O14: of all the kinds of step only a reset has another `CAP`. -/
theorem capIsConstantBetweenResets : Obligations.CapIsConstantBetweenResets := by
  refine ⟨fun s rest h => ⟨capWord s, step_of_read h rfl (by simp [readNeedsIdle]), ?_, ?_, ?_⟩,
    fun s w rest h => step_of_ignored_write h rfl rfl, fun s t h hne => ?_⟩
  · rw [getLsbD_capWord _ _ (by decide)]; simp
  · rw [getLsbD_capWord _ _ (by decide)]; simp
  · apply BitVec.eq_of_getLsbD_eq
    intro i hi
    rw [BitVec.getLsbD_extractLsb', getLsbD_capWord _ _ (by omega)]
    simp [show 2 + i ≠ 1 by omega]
  · cases step_eq_next h with
    | reset hhost => exact ⟨_, _, hhost, rfl⟩
    | idle | illegalWord => exact absurd rfl hne
    | read | write | command => simp at hne

/-- A 128-bit register is its four words, less significant first (20_memory.md R53). -/
theorem toNat_eq_words (c : Counter) : c.toNat = (getWord c 3).toNat * 2 ^ 96 + (getWord c 2).toNat * 2 ^ 64 +
    (getWord c 1).toNat * 2 ^ 32 + (getWord c 0).toNat := by
  have hlt := c.isLt
  simp only [getWord, BitVec.extractLsb'_toNat, Nat.shiftRight_eq_div_pow]
  omega

/-- A read of one word of the counter, in an idle SSG (10_state.md R36). -/
theorem step_of_counter_read {s : State} (k : Fin 4) {rest : List HostAction} (hidle : s.busy = false)
    (h : s.host = .read (0x60 + 4 * k.val) 4 :: rest) :
    step s = .next { s with host := rest, reads := s.reads ++ [getWord s.ctr k.val] } :=
  step_of_read h (regAt_ctr k) (by simp [hidle])

/-- Reads of counter words one after the other return the words in that order and change nothing else. -/
theorem run_counter_reads (ks : List (Fin 4)) {s : State} {rest : List HostAction} (hidle : s.busy = false)
    (h : s.host = ks.map (fun k => .read (0x60 + 4 * k.val) 4) ++ rest) :
    Sys2Proof.core.run ks.length s =
      .next { s with host := rest, reads := s.reads ++ ks.map fun k => getWord s.ctr k.val } := by
  induction ks generalizing s with
  | nil => simp [Host.Core.run, ← show s.host = rest from h]
  | cons k ks ih =>
    have htail := ih (s := { s with
      host := ks.map (fun k => .read (0x60 + 4 * k.val) 4) ++ rest
      reads := s.reads ++ [getWord s.ctr k.val] }) hidle rfl
    simp only [List.append_assoc] at htail
    exact (run_succ_of_step (step_of_counter_read k hidle h)).trans htail

/-- Settles O15: four reads of counter words, and the counter put together from them. -/
theorem counterReadsInFourWords : Obligations.CounterReadsInFourWords := by
  refine ⟨fun s rest hidle h => ?_, fun s k w rest h => ?_, fun s k rest hbusy h => ?_⟩
  · exact ⟨_, _, _, _, run_counter_reads [0, 1, 2, 3] hidle h, toNat_eq_words s.ctr⟩
  · exact step_of_ignored_write h (regAt_ctr k) rfl
  · have hbusy' : State.busy { s with host := rest } = true := hbusy
    rw [step_of_action h, hostAct, hostRead, accessedReg_word, regAt_ctr]
    simp [hbusy', readNeedsIdle]

/-! ## The staging register -/

theorem getElem_setSeedWord (v : SeedBytes) (k : Nat) (w : Word) (j : Fin 32) :
    (setSeedWord v k w)[j.val] = if j.val / 4 = k then w.extractLsb' (8 * (j.val % 4)) 8 else v[j.val] := by
  simp [setSeedWord, byteOfWord]

theorem take_toSeed {b : ByteString} (h : b.length ≤ 32) : (toSeed b).toList.take b.length = b := by
  apply List.ext_getElem
  · simp [h]
  · intro i h1 h2
    simp [getElem_toSeed, h2]

/-- Settles O17: the packing is `setSeedWord`'s, and both effects of a `RESEED` clear the register. -/
theorem stagingRegisterPacksAndClears : Obligations.StagingRegisterPacksAndClears := by
  refine ⟨fun s k w hidle => ?_, fun s k => ?_, fun s slen => ?_⟩
  · exact ⟨setSeedWord s.seedin k.val w, hostWrite_of_regAt (regAt_seedin k) (by simp [hidle]) (by simp),
      getElem_setSeedWord s.seedin k.val w⟩
  · exact hostRead_of_regAt (regAt_seedin k) (by simp [readNeedsIdle])
  · obtain ⟨f, hf, heff⟩ := exec_hasEffect (.reseed slen) s
    refine ⟨f.apply s, heff s rfl, ?_⟩
    have hzero : ∀ j : Fin 32, zeroSeed[j.val] = 0 := fun j => getElem_zeroSeed j.val j.isLt
    cases hf with
    | badLength hk =>
      obtain ⟨h16, h32⟩ := keyLenOfSeed_eq_none.mp hk
      exact ⟨hzero, fun h => (h.elim h16 h32).elim⟩
    | reseed hk =>
      refine ⟨hzero, fun h => ?_⟩
      have hlen : (operandSeed slen s).length = slen := by rw [length_operandSeed]; omega
      have htake := take_toSeed (b := operandSeed slen s) (by omega)
      rwa [hlen] at htake
    | notSeeded hi | shortKey hi => cases hi
    | invalidRange hi | exhaust _ _ hi | seek _ hi => simp at hi

/-! ## Secrets -/

theorem readValue_withSecrets (r : HostReg) (seed seedin : SeedBytes) (s : State) :
    readValue r (s.withSecrets seed seedin) = readValue r s := by
  cases r <;> rfl

theorem afterRead_withSecrets (r : HostReg) (seed seedin : SeedBytes) (s : State) :
    afterRead r (s.withSecrets seed seedin) = (afterRead r s).withSecrets seed seedin := by
  cases r <;> rfl

/-- Settles O19: neither the word a read returns nor what it consumes looks at `SEED` or `SEEDIN`. -/
theorem secretsCannotBeRead : Obligations.SecretsCannotBeRead := by
  intro s seed seedin offset width t h
  cases hr : accessedReg offset width with
  | none => simp [hostRead, hr] at h
  | some r =>
    have hbusy : (s.withSecrets seed seedin).busy = s.busy := rfl
    simp only [hostRead, hr, hbusy] at h ⊢
    split at h
    · cases h
    · cases h
      rw [if_neg ‹_›, readValue_withSecrets, afterRead_withSecrets]
      rfl

/-- Settles O58: of the steps that are not a reset only a command moves `SEED`, by one of three effects. -/
theorem seedIsWrittenOnlyByReplace : Obligations.SeedIsWrittenOnlyByReplace := by
  intro s t h hne
  cases step_eq_next h with
  | reset hhost => exact .inl ⟨_, _, hhost⟩
  | idle | illegalWord => exact absurd rfl hne
  | read | write => simp at hne
  | command hhost _ hdecode hf =>
    refine .inr ⟨_, _, _, hhost, hdecode, ?_⟩
    cases hf with
    | reseed hk =>
      obtain ⟨rfl, -⟩ | ⟨rfl, -⟩ := keyLenOfSeed_eq_some.mp hk
      · exact .inl rfl
      · exact .inr (.inl rfl)
    | eGetBytes e b m hseeded hk => exact .inr (.inr ⟨.inl rfl, hk, hseeded⟩)
    | eGetInt e r m hseeded hk => exact .inr (.inr ⟨.inr rfl, hk, hseeded⟩)
    | _ => exact absurd rfl hne

end Sys2Proof.Machine
end

section
/-! The accesses of the host: which are refused, what a read and a write of each register do (20_memory.md R51 to R57,
70_reset_and_hazards.md R225 to R227). -/

namespace Sys2Proof.Machine

/-! ## Which accesses meet a register (20_memory.md R51, R52) -/

theorem regAt_of_beyond {offset : Nat} (h : 0x80 ≤ offset) : regAt offset = none := by
  have hquot : offset / 4 = (offset - 0x80) / 4 + 32 := by omega
  simp [regAt, hquot]

theorem regAt_eq_none {offset : Nat} : regAt offset = none ↔ offset % 4 ≠ 0 ∨ 0x80 ≤ offset := by
  obtain hin | hbeyond := Nat.lt_or_ge offset 0x80
  · have hfile : ∀ o < 0x80, regAt o = none ↔ o % 4 ≠ 0 := by decide
    simp [hfile offset hin, hin.not_ge]
  · simp [regAt_of_beyond hbeyond, hbeyond]

theorem accessedReg_eq_none {offset width : Nat} :
    accessedReg offset width = none ↔ width ≠ 4 ∨ offset % 4 ≠ 0 ∨ 0x80 ≤ offset := by
  rw [← regAt_eq_none, accessedReg]
  split <;> simp_all

theorem regAt_pos (k : Fin 4) : regAt (0x10 + 4 * k.val) = some (.pos k) := by revert k; decide

theorem regAt_min (k : Fin 2) : regAt (0x20 + 4 * k.val) = some (.min k) := by revert k; decide

theorem regAt_max (k : Fin 2) : regAt (0x28 + 4 * k.val) = some (.max k) := by revert k; decide

/-! ## What an access without a meaning answers (70_reset_and_hazards.md R225, R226) -/

theorem hostRead_of_no_register {s : State} {offset width : Nat} (h : accessedReg offset width = none) :
    hostRead offset width s = .refused .unsupportedAccess := by
  simp only [hostRead, h]

theorem hostWrite_of_no_register {s : State} {offset width : Nat} {w : Word} (h : accessedReg offset width = none) :
    hostWrite offset width w s = .refused .unsupportedAccess := by
  simp only [hostWrite, h]

theorem hostRead_of_busy {s : State} {offset : Nat} {r : HostReg} (hr : regAt offset = some r)
    (hbusy : (s.busy && readNeedsIdle r) = true) : hostRead offset 4 s = .refused .accessWhileBusy := by
  simp only [hostRead, accessedReg_word, hr, hbusy, if_true]

theorem hostWrite_of_busy {s : State} {offset : Nat} {r : HostReg} {w : Word} (hr : regAt offset = some r)
    (hbusy : (s.busy && writeNeedsIdle r) = true) : hostWrite offset 4 w s = .refused .accessWhileBusy := by
  simp only [hostWrite, accessedReg_word, hr, hbusy, if_true]

/-! ## Every other access answers a next state -/

theorem launch_answers (w : Word) (s : State) : ∃ t, launch w s = .next t := by
  cases hdecode : decode w with
  | error e => exact ⟨_, by simp only [launch, hdecode]; rfl⟩
  | ok i =>
    obtain ⟨t, ht, -⟩ := everyCommandCompletes i (beginCommand s)
    exact ⟨t, by simp only [launch, hdecode, ht]⟩

theorem hostWrite_answers {s : State} {offset : Nat} {r : HostReg} (w : Word) (hr : regAt offset = some r)
    (hidle : (s.busy && writeNeedsIdle r) = false) : ∃ t, hostWrite offset 4 w s = .next t := by
  by_cases hcmd : r = .cmd
  · subst hcmd
    simpa only [hostWrite, accessedReg_word, hr, hidle, Bool.false_eq_true, if_false] using launch_answers w s
  · exact ⟨_, hostWrite_of_regAt hr hidle hcmd⟩

/-! ## The host's duties decide (20_memory.md R52, 70_reset_and_hazards.md R225, R226) -/

/-- The duties look at the access and at `BUSY` alone. -/
theorem disciplined_withHost (s : State) (a : HostAction) (rest : List HostAction) :
    disciplined { s with host := rest } a = disciplined s a := by cases a <;> rfl

theorem hostAct_of_disciplined {s : State} {a : HostAction} (h : disciplined s a = true) : ∃ t, hostAct a s = .next t := by
  cases a with
  | reset caps => exact ⟨_, rfl⟩
  | read offset width =>
    cases hr : accessedReg offset width with
    | none => simp [disciplined, hr] at h
    | some r =>
      obtain ⟨rfl, hreg⟩ := accessedReg_eq_some.mp hr
      exact ⟨_, hostRead_of_regAt hreg (by simpa only [disciplined, accessedReg_word, hreg, Bool.not_eq_true'] using h)⟩
  | write offset width w =>
    cases hr : accessedReg offset width with
    | none => simp [disciplined, hr] at h
    | some r =>
      obtain ⟨rfl, hreg⟩ := accessedReg_eq_some.mp hr
      exact hostWrite_answers w hreg (by simpa only [disciplined, accessedReg_word, hreg, Bool.not_eq_true'] using h)

theorem hostAct_of_undisciplined {s : State} {a : HostAction} (h : disciplined s a = false) :
    hostAct a s = .refused .unsupportedAccess ∨ (s.busy = true ∧ hostAct a s = .refused .accessWhileBusy) := by
  cases a with
  | reset caps => cases h
  | read offset width =>
    cases hr : accessedReg offset width with
    | none => exact .inl (hostRead_of_no_register hr)
    | some r =>
      obtain ⟨rfl, hreg⟩ := accessedReg_eq_some.mp hr
      have hbusy : s.busy = true ∧ readNeedsIdle r = true := by simpa [disciplined, hreg] using h
      exact .inr ⟨hbusy.1, hostRead_of_busy hreg (by simp [hbusy])⟩
  | write offset width w =>
    cases hr : accessedReg offset width with
    | none => exact .inl (hostWrite_of_no_register hr)
    | some r =>
      obtain ⟨rfl, hreg⟩ := accessedReg_eq_some.mp hr
      have hbusy : s.busy = true ∧ writeNeedsIdle r = true := by simpa [disciplined, hreg] using h
      exact .inr ⟨hbusy.1, hostWrite_of_busy hreg (by simp [hbusy])⟩

/-- The offsets of the registers a busy SSG takes no write to, and of the others. -/
theorem writeNeedsIdle_by_offset :
    (∀ offset ∈ [0x00, 0x08, 0x10, 0x14, 0x18, 0x1C, 0x20, 0x24, 0x28, 0x2C,
      0x40, 0x44, 0x48, 0x4C, 0x50, 0x54, 0x58, 0x5C], (regAt offset).map writeNeedsIdle = some true) ∧
    (∀ offset ∈ [0x04, 0x0C, 0x30, 0x34, 0x38, 0x3C, 0x60, 0x64, 0x68, 0x6C, 0x70, 0x74, 0x78, 0x7C],
      (regAt offset).map writeNeedsIdle = some false) := by decide

/-- The offsets of the registers a busy SSG answers no read of, and of the others. -/
theorem readNeedsIdle_by_offset :
    (∀ offset ∈ [0x30, 0x34, 0x60, 0x64, 0x68, 0x6C], (regAt offset).map readNeedsIdle = some true) ∧
    (∀ offset ∈ [0x00, 0x04, 0x08, 0x0C, 0x10, 0x14, 0x18, 0x1C, 0x20, 0x24, 0x28, 0x2C, 0x38, 0x3C,
      0x40, 0x44, 0x48, 0x4C, 0x50, 0x54, 0x58, 0x5C, 0x70, 0x74, 0x78, 0x7C],
      (regAt offset).map readNeedsIdle = some false) := by decide

/-- Settles O10: the duties decide whether a step is refused, and the busy duties go by the register at the offset. -/
theorem onlyUndisciplinedAccessesAreRefused : Obligations.OnlyUndisciplinedAccessesAreRefused := by
  intro s
  refine ⟨fun h => ?_, fun h => ?_, fun offset width rest h haccess => ?_, fun offset width w rest h haccess => ?_,
    fun offset w rest hbusy h ho => ?_, fun offset w rest hbusy h ho => ?_, fun offset rest hbusy h ho => ?_,
    fun offset rest hbusy h ho => ?_⟩
  · cases hhost : s.host with
    | nil => exact ⟨s, by simp only [step, hhost]⟩
    | cons a rest =>
      simp only [stepDisciplined, hhost] at h
      rw [step_of_action hhost]
      exact hostAct_of_disciplined ((disciplined_withHost s a rest).trans h)
  · cases hhost : s.host with
    | nil => simp [stepDisciplined, hhost] at h
    | cons a rest =>
      simp only [stepDisciplined, hhost] at h
      rw [step_of_action hhost]
      exact hostAct_of_undisciplined ((disciplined_withHost s a rest).trans h)
  · exact (step_of_action h).trans (hostRead_of_no_register (accessedReg_eq_none.mpr haccess))
  · exact (step_of_action h).trans (hostWrite_of_no_register (accessedReg_eq_none.mpr haccess))
  · obtain ⟨r, hr, hneeds⟩ := Option.map_eq_some_iff.mp (writeNeedsIdle_by_offset.1 offset ho)
    exact (step_of_action h).trans (hostWrite_of_busy hr (Bool.and_eq_true_iff.mpr ⟨hbusy, hneeds⟩))
  · obtain ⟨r, hr, hneeds⟩ := Option.map_eq_some_iff.mp (writeNeedsIdle_by_offset.2 offset ho)
    exact ⟨_, step_of_ignored_write h hr hneeds⟩
  · obtain ⟨r, hr, hneeds⟩ := Option.map_eq_some_iff.mp (readNeedsIdle_by_offset.1 offset ho)
    exact (step_of_action h).trans (hostRead_of_busy hr (Bool.and_eq_true_iff.mpr ⟨hbusy, hneeds⟩))
  · obtain ⟨r, hr, hneeds⟩ := Option.map_eq_some_iff.mp (readNeedsIdle_by_offset.2 offset ho)
    exact ⟨_, step_of_read h hr (by simp [hneeds])⟩

/-! ## What a register reads as after a write (20_memory.md R51, R53) -/

/-- The operand registers: those a write sets and a read returns. -/
def HostReg.isOperand : HostReg → Bool
  | .len | .pos _ | .min _ | .max _ => true
  | .cmd | .status | .dout | .result _ | .seedin _ | .ctr _ | .cap | .reserved => false

theorem isOperand_by_offset : ∀ offset ∈ [0x08, 0x10, 0x14, 0x18, 0x1C, 0x20, 0x24, 0x28, 0x2C],
    (regAt offset).map HostReg.isOperand = some true := by decide

theorem readValue_writeReg_same {r : HostReg} (h : r.isOperand = true) (w : Word) (s : State) :
    readValue r (writeReg r w s) = w := by
  cases r with
  | len => rfl
  | pos k => exact getWord_setWord _ _ _ (by omega)
  | min k | max k => exact getWord_setWord _ _ _ (by omega)
  | _ => cases h

theorem readValue_writeReg_of_ne {r r' : HostReg} (h : r' ≠ r) (w : Word) (s : State) :
    readValue r' (writeReg r w s) = readValue r' s := by
  cases r with
  | cmd | status | dout | result | ctr | cap | reserved => rfl
  | len =>
    cases r' with
    | len => exact absurd rfl h
    | _ => rfl
  | seedin k => cases r' <;> rfl
  | pos k =>
    cases r' with
    | pos j => exact getWord_setWord_of_ne _ _ fun hjk => h (congrArg _ (Fin.ext hjk))
    | _ => rfl
  | min k =>
    cases r' with
    | min j => exact getWord_setWord_of_ne _ _ fun hjk => h (congrArg _ (Fin.ext hjk))
    | _ => rfl
  | max k =>
    cases r' with
    | max j => exact getWord_setWord_of_ne _ _ fun hjk => h (congrArg _ (Fin.ext hjk))
    | _ => rfl

/-- A write to an operand register stays within the operand registers. -/
theorem writeReg_operand_frame {r : HostReg} (h : r.isOperand = true) (w : Word) (s : State) :
    writeReg r w s = { s with
      len := (writeReg r w s).len
      pos := (writeReg r w s).pos
      minReg := (writeReg r w s).minReg
      maxReg := (writeReg r w s).maxReg } := by
  cases r with
  | len | pos | min | max => rfl
  | _ => cases h

theorem afterRead_operand {r : HostReg} (h : r.isOperand = true) (s : State) : afterRead r s = s := by
  cases r with
  | dout => cases h
  | _ => rfl

/-- An operand register is read at any time, busy or not, and a write of it launches nothing. -/
theorem isOperand_access {r : HostReg} (h : r.isOperand = true) : readNeedsIdle r = false ∧ r ≠ .cmd := by
  cases r with
  | len | pos | min | max => exact ⟨rfl, by simp⟩
  | _ => cases h

/-- A write outside the operand and staging registers is ignored, busy or not (20_memory.md R55). -/
theorem hostWrite_ignored {s : State} {offset : Nat} {r : HostReg} (w : Word) (hr : regAt offset = some r)
    (hneeds : writeNeedsIdle r = false) : hostWrite offset 4 w s = .next s := by
  have hidle : (s.busy && writeNeedsIdle r) = false := by simp [hneeds]
  cases r with
  | status | dout | result | ctr | cap | reserved => exact hostWrite_of_regAt hr hidle (by simp)
  | _ => cases hneeds

/-- The words of a register after a write of one of them (20_memory.md R53). -/
theorem extractLsb'_setWord {m : Nat} (v : BitVec (32 * m)) (k : Fin m) (w : Word) (j : Fin m) :
    (setWord v k.val w).extractLsb' (32 * j.val) 32 = if j = k then w else v.extractLsb' (32 * j.val) 32 := by
  split
  · subst j; exact getWord_setWord v k.val w (by omega)
  · exact getWord_setWord_of_ne v w (by omega)

/-- A 64-bit register is its two words, less significant first (20_memory.md R53). -/
theorem toNat_eq_two_words (v : Native) : v.toNat = (getWord v 1).toNat * 2 ^ 32 + (getWord v 0).toNat := by
  have hlt := v.isLt
  simp only [getWord, BitVec.extractLsb'_toNat, Nat.shiftRight_eq_div_pow]
  omega

/-- The offsets that read 0: `CMD` and the reserved ones (20_memory.md R51, R55). -/
theorem zero_offsets : ∀ offset ∈ [0x00, 0x38, 0x3C, 0x74, 0x78, 0x7C],
    regAt offset = some .cmd ∨ regAt offset = some .reserved := by decide

/-- Settles O16: reads and writes by register, and the words of a wide register by `setWord`. -/
theorem registersTakeOnlyTheirWrites : Obligations.RegistersTakeOnlyTheirWrites := by
  refine ⟨fun s offset w ho hidle => ?_, fun s offset w ho => ?_, fun s offset ho => ?_, fun s hidle => ?_,
    fun s w hidle => ?_, fun s k w hidle => ?_, fun s k w hidle => ?_, fun s k w hidle => ?_⟩
  · obtain ⟨r, hr, hop⟩ := Option.map_eq_some_iff.mp (isOperand_by_offset offset ho)
    obtain ⟨hread, hcmd⟩ := isOperand_access hop
    have hreads := hostRead_of_regAt (s := s) hr (by simp [hread])
    rw [afterRead_operand hop] at hreads
    exact ⟨r, writeReg r w s, hr, hostWrite_of_regAt hr (by simp [hidle]) hcmd, readValue_writeReg_same hop w s,
      fun r' hne => readValue_writeReg_of_ne hne w s, writeReg_operand_frame hop w s, hreads⟩
  · obtain ⟨r, hr, hneeds⟩ := Option.map_eq_some_iff.mp (writeNeedsIdle_by_offset.2 offset ho)
    exact hostWrite_ignored w hr hneeds
  · obtain hr | hr := zero_offsets offset ho
    · exact hostRead_of_regAt hr (by simp [readNeedsIdle])
    · exact hostRead_of_regAt hr (by simp [readNeedsIdle])
  · exact ⟨getWord s.result 0, getWord s.result 1, hostRead_of_regAt (r := .result 0) rfl (by simp [hidle]),
      hostRead_of_regAt (r := .result 1) rfl (by simp [hidle]), toNat_eq_two_words s.result⟩
  · exact hostWrite_of_regAt (r := .len) rfl (by simp [hidle]) (by simp)
  · exact ⟨setWord s.pos k.val w, hostWrite_of_regAt (regAt_pos k) (by simp [hidle]) (by simp),
      extractLsb'_setWord (m := 4) s.pos k w⟩
  · exact ⟨setWord s.minReg k.val w, hostWrite_of_regAt (regAt_min k) (by simp [hidle]) (by simp),
      extractLsb'_setWord (m := 2) s.minReg k w⟩
  · exact ⟨setWord s.maxReg k.val w, hostWrite_of_regAt (regAt_max k) (by simp [hidle]) (by simp),
      extractLsb'_setWord (m := 2) s.maxReg k w⟩

/-! ## Draining the output (20_memory.md R57, 70_reset_and_hazards.md R227) -/

/-- A read of `DOUT` hands out the waiting byte and consumes it, busy or not. -/
theorem step_of_dout_read {s : State} {rest : List HostAction} (h : s.host = .read 0x0C 4 :: rest) :
    step s = .next { s with out := s.out.tail, host := rest, reads := s.reads ++ [doutWord s] } :=
  step_of_read h (r := .dout) rfl (by simp [readNeedsIdle])

theorem run_drain_of_empty (m : Nat) {s : State} {rest : List HostAction} (hout : s.out = [])
    (h : s.host = drainActions m ++ rest) :
    Sys2Proof.core.run m s = .next { s with host := rest, reads := s.reads ++ List.replicate m 0 } := by
  induction m generalizing s with
  | zero => simp [Host.Core.run, ← show s.host = rest from h]
  | succ m ih =>
    have hstep := step_of_dout_read (s := s) (rest := drainActions m ++ rest) h
    rw [run_succ_of_step hstep, ih (by simp [hout]) rfl]
    simp [doutWord, hout, List.replicate_succ]

theorem run_drain (bytes : ByteString) (m : Nat) {s : State} {rest : List HostAction} (hout : s.out = bytes)
    (h : s.host = drainActions (bytes.length + m) ++ rest) :
    Sys2Proof.core.run (bytes.length + m) s = .next { s with
      out := []
      host := rest
      reads := s.reads ++ bytes.map (fun b => b.zeroExtend 32) ++ List.replicate m 0 } := by
  induction bytes generalizing s with
  | nil =>
    simp only [List.length_nil, Nat.zero_add] at h ⊢
    rw [run_drain_of_empty m hout h]
    simp [hout]
  | cons b bytes ih =>
    have hlen : (b :: bytes).length + m = (bytes.length + m) + 1 := by simp only [List.length_cons]; omega
    rw [hlen] at h ⊢
    have hstep := step_of_dout_read (s := s) (rest := drainActions (bytes.length + m) ++ rest) h
    rw [run_succ_of_step hstep, ih (by simp [hout]) rfl]
    simp [doutWord, hout]

/-- Settles O18: by induction over the waiting bytes; one read leaves the tail of the queue waiting. -/
theorem outputIsDeliveredOnceInOrder : Obligations.OutputIsDeliveredOnceInOrder := by
  refine ⟨fun s m rest h => run_drain s.out m rfl h, fun s t rest hhost h => ?_⟩
  rw [step_of_dout_read hhost] at h
  cases h
  rw [busy_eq_true]
  cases hout : s.out with
  | nil => simp
  | cons b bytes => cases bytes <;> simp

end Sys2Proof.Machine
end

section
/-! The cipher port: both request kinds give the keystream, what a keystream request and a run of draws do, and the requests of
each command (20_memory.md R58 to R62, 40_getbytes.md R102 to R107). -/

namespace Sys2Proof.Machine

/-! ## The engine's answer is the keystream (20_memory.md R59, R60, R62) -/

/-- The exclusive-or with zeros changes nothing (40_getbytes.md R105). -/
theorem xorBytes_zeros {b : ByteString} {n : Nat} (h : b.length ≤ n) : xorBytes (zeros n) b = b := by
  apply List.ext_getElem
  · simp [xorBytes, zeros, h]
  · simp [xorBytes, zeros]

/-- The blocks the engine's CTR mode counts through are the counter blocks (20_memory.md R59). -/
theorem ctrMode_blocks (c : Counter) (k : Nat) :
    ((List.range k).map fun i => be128 (BitVec.ofNat 128 (intBE (be128 c).toList + i))) = counterBlocks c k := by
  simp only [counterBlocks, nonce, intBE_be128, BitVec.ofNat_add, BitVec.ofNat_toNat, BitVec.setWidth_eq]

theorem cipherCTR_be128 (E : Cipher) (K : Key) (c : Counter) (n : Nat) : cipherCTR E K (be128 c) n = ks E K c n := by
  rw [cipherCTR, ctrMode_blocks, ← ks]
  exact xorBytes_zeros (List.length_take_le _ _)

/-- Settles O23: the first bytes of the ECB answer over the counter blocks are the keystream, and so is the CTR answer. -/
theorem requestKindsAgree : Obligations.RequestKindsAgree :=
  fun E K c n _ => cipherCTR_be128 E K c n

theorem inc128_nonce (c : Counter) : inc128 (nonce c) = nonce (c + 1) := by
  rw [inc128, nonce, intBE_be128, BitVec.ofNat_add, BitVec.ofNat_toNat, BitVec.setWidth_eq]
  rfl

theorem counterBlocks_succ (c : Counter) (k : Nat) : counterBlocks c (k + 1) = nonce c :: counterBlocks (c + 1) k := by
  have hnext : ∀ i : Nat, c + BitVec.ofNat 128 (i + 1) = c + 1 + BitVec.ofNat 128 i := fun i => by
    rw [BitVec.ofNat_add, add_comm (BitVec.ofNat 128 i), ← add_assoc]
    rfl
  rw [counterBlocks, List.range_succ_eq_map, List.map_cons, List.map_map, BitVec.add_zero]
  exact congrArg (nonce c :: ·) (List.map_congr_left fun i _ => congrArg nonce (hnext i))

/-- The chain of the emulated mode is the counter blocks (40_getbytes.md R104). -/
theorem nonceChain_nonce (c : Counter) (k : Nat) : nonceChain (nonce c) k = counterBlocks c k := by
  induction k generalizing c with
  | zero => rfl
  | succ k ih => rw [nonceChain, inc128_nonce, ih, counterBlocks_succ]

/-- Whatever the backend, what SSG makes of the engine's answer is the keystream (40_getbytes.md R105, R106). -/
theorem assembleKeystream_engineAnswer (E : Cipher) (K : Key) (b : Backend) (c : Counter) (n : Nat) :
    assembleKeystream b n (engineAnswer E ⟨K, portOp b c n⟩) = ks E K c n := by
  cases b with
  | native => exact cipherCTR_be128 E K c n
  | emulated =>
    simp only [assembleKeystream, engineAnswer, portOp, cipherECB, nonceChain_nonce]
    exact xorBytes_zeros (List.length_take_le _ _)

/-! ## The keystream request -/

@[simp] theorem requestEvents_zero (s : State) (c : Counter) : requestEvents s c 0 = [] := rfl

theorem requestEvents_of_pos (s : State) (c : Counter) {n : Nat} (h : n ≠ 0) :
    requestEvents s c n = [⟨s.keylen, portOp s.bsel c n⟩] := by
  obtain ⟨n, rfl⟩ := Nat.exists_eq_succ_of_ne_zero h
  cases hb : s.bsel <;> simp [requestEvents, hb, portOp, nonceChain_nonce]

/-- A keystream request gives the keystream at the counter, advances it by whole blocks, and makes the request of R61
(40_getbytes.md R107). -/
theorem keystreamRequest_eq (E : Cipher) (n : Nat) (s : State) :
    keystreamRequest E n s = (ks E s.key s.ctr n,
      advance (s.ctr + BitVec.ofNat 128 (ceilDiv n 16)) (requestEvents s s.ctr n) s) := by
  by_cases h : n = 0
  · subst h; simp [keystreamRequest, ks, ceilDiv]
  · simp only [keystreamRequest, h, if_false, assembleKeystream_engineAnswer, requestEvents_of_pos _ _ h]

/-- A request's events depend on the key length and the backend of the state alone. -/
@[simp] theorem requestEvents_advance (c c' : Counter) (e : List PortEvent) (s : State) (n : Nat) :
    requestEvents (advance c e s) c' n = requestEvents s c' n := rfl

@[simp] theorem requestEvents_writeResult (r : Int) (c : Counter) (s : State) (n : Nat) :
    requestEvents (writeResult r s) c n = requestEvents s c n := rfl

/-! ## The draws (41_getint.md R135 to R138) -/

/-- The state after the first `d` draws: the counter past their blocks, their requests recorded. -/
def afterDraws (s : State) (d : Nat) : State := advance (s.ctr + BitVec.ofNat 128 d) (drawEvents s d) s

@[simp] theorem afterDraws_zero (s : State) : afterDraws s 0 = s := by simp [afterDraws, drawEvents]

theorem drawEvents_succ (s : State) (d : Nat) :
    drawEvents s (d + 1) =
      drawEvents s d ++ requestEvents s (s.ctr + BitVec.ofNat 128 d) (operandSampling s).nbytes := by
  simp [drawEvents, List.range_succ]

/-- A draw is never empty and takes at most the eight bytes of a native integer (41_getint.md R133, R134). -/
theorem operandSampling_nbytes {s : State} (h : operandMin s < operandMax s) :
    1 ≤ (operandSampling s).nbytes ∧ (operandSampling s).nbytes ≤ 8 := by
  have hrange : 0 < (operandMax s - operandMin s).toNat := by omega
  obtain ⟨hpos, hle, -⟩ := bitlen_spec hrange
  simp only [operandSampling, rangeAnalysis]
  split
  · decide
  · rename_i hnarrow
    have hpow : 2 ^ (bitlen (operandMax s - operandMin s).toNat - 1) < 2 ^ 63 := by
      simp only [Config.nativeWidth] at hnarrow
      omega
    have hbits := (Nat.pow_lt_pow_iff_right (a := 2) (by decide)).mp hpow
    simp only [ceilDiv]
    omega

/-- One draw reads the keystream at its own counter and advances by one block (41_getint.md R135, R138). -/
theorem keystreamRequest_afterDraws (E : Cipher) {s : State} (h : operandMin s < operandMax s) (d : Nat) :
    keystreamRequest E (operandSampling s).nbytes (afterDraws s d) =
      (ks E s.key (s.ctr + BitVec.ofNat 128 d) (operandSampling s).nbytes, afterDraws s (d + 1)) := by
  have hone : ceilDiv (operandSampling s).nbytes 16 = 1 := by
    obtain ⟨hpos, hle⟩ := operandSampling_nbytes h
    rw [ceilDiv_block]
    omega
  rw [keystreamRequest_eq, hone]
  simp [afterDraws, drawEvents_succ, BitVec.ofNat_add, add_assoc]

/-- A draw loop that has made `d` draws and may make `k` more stops at the first accepted one of them, or after all. -/
theorem drawLoop_afterDraws (E : Cipher) {s : State} (h : operandMin s < operandMax s) (k d : Nat) :
    drawLoop E (operandMin s) (operandMax s) k (afterDraws s d) =
      (((List.range' d k).find? (drawAccepted E s)).map (drawCandidate E s),
        afterDraws s (((List.range' d k).find? (drawAccepted E s)).elim (d + k) (· + 1))) := by
  induction k generalizing d with
  | zero => rfl
  | succ k ih =>
    have hreq := keystreamRequest_afterDraws E h d
    have hcand : candidateOf Config.nativeWidth (operandSampling s) (operandMin s)
        (drawValue (operandSampling s) (ks E s.key (s.ctr + BitVec.ofNat 128 d) (operandSampling s).nbytes)) =
          drawCandidate E s d := rfl
    simp only [operandSampling] at hreq hcand
    rw [drawLoop]
    simp only [hreq, hcand, ih, List.range'_succ, List.find?_cons]
    cases hacc : drawAccepted E s d with
    | true => rw [drawAccepted] at hacc; simp [hacc]
    | false => rw [drawAccepted] at hacc; simp [hacc, add_assoc, add_comm 1]

theorem drawsMade_of_lt (E : Cipher) {s : State} (h : operandMin s < operandMax s) :
    drawsMade E s = (firstAccepted E s).elim 128 (· + 1) := by
  simp only [drawsMade, h, if_true]
  cases firstAccepted E s <;> rfl

/-- The engine's loop makes `drawsMade` draws and answers the candidate of the first accepted one (41_getint.md R136). -/
theorem drawLoop_eq (E : Cipher) {s : State} (h : operandMin s < operandMax s) :
    drawLoop E (operandMin s) (operandMax s) Config.maxAttempts s =
      ((firstAccepted E s).map (drawCandidate E s), afterDraws s (drawsMade E s)) := by
  have hloop := drawLoop_afterDraws E h Config.maxAttempts 0
  rw [afterDraws_zero] at hloop
  rw [hloop, drawsMade_of_lt E h, firstAccepted, List.range_eq_range', Nat.zero_add]

/-- Whatever code the sampling ends with, it has made the draws of R138; on `OK` it has written `RESULT` (41_getint.md R137). -/
theorem sampleInt_afterDraws (E : Cipher) (s : State) :
    (∃ r, sampleInt E s = (.ok, writeResult r (afterDraws s (drawsMade E s)))) ∨
    ∃ c, c ≠ .ok ∧ sampleInt E s = (c, afterDraws s (drawsMade E s)) := by
  rcases lt_trichotomy (operandMin s) (operandMax s) with hlt | heq | hgt
  · have hloop := drawLoop_eq E hlt
    cases hfirst : firstAccepted E s with
    | some k => exact .inl ⟨drawCandidate E s k, by simp [sampleInt, hlt.not_gt, hlt.ne, hloop, hfirst]⟩
    | none => exact .inr ⟨.generatorExhausted, by simp, by simp [sampleInt, hlt.not_gt, hlt.ne, hloop, hfirst]⟩
  · exact .inl ⟨operandMin s, by simp [sampleInt, heq, drawsMade]⟩
  · exact .inr ⟨.invalidRange, by simp, by simp [sampleInt, hgt, hgt.not_gt, drawsMade]⟩

/-! ## The tests before a command -/

theorem whenErasable_of_long_key {s : State} {body : Answer} (hs : s.seeded = true) (hk : s.keylen = .bits256) :
    whenErasable s body = body := by simp [whenErasable, whenSeeded, hs, hk]

theorem exec_of_unseeded {i : Instr} {s : State} (hi : i.isReseed = false) (hs : s.seeded = false) :
    exec i s = .next { s with err := .notSeeded } := by
  cases i with
  | reseed => cases hi
  | _ => exact whenSeeded_of_unseeded hs

theorem exec_of_short_key {i : Instr} {s : State} (hi : i.isErasure = true) (hs : s.seeded = true)
    (hk : s.keylen = .bits128) : exec i s = .next { s with err := .illegalCommand } := by
  have hfail : ∀ body, whenErasable s body = .next { s with err := .illegalCommand } := fun body => by
    simp [whenErasable, whenSeeded, hs, hk, raise]
  cases i with
  | eSeekSet | eSeekInc | eGetBytes | eGetInt => exact hfail _
  | _ => cases hi

/-! ## The requests of each command (20_memory.md R61) -/

section
variable {E : Cipher} {s t : State}

theorem port_of_reseed {slen : Nat} (h : execReseed slen s = .next t) : t.port = s.port := by
  unfold execReseed at h
  split at h <;> cases h <;> simp

theorem port_of_getBytes (hs : s.seeded = true) (h : getBytes E s = .next t) :
    t.port = s.port ++ requestEvents s s.ctr s.len.toNat := by
  simp only [getBytes, whenSeeded_of_seeded hs, keystreamRequest_eq] at h
  cases h
  rfl

theorem port_of_eGetBytes (hs : s.seeded = true) (hk : s.keylen = .bits256) (h : eGetBytes E s = .next t) :
    t.port = s.port ++ requestEvents s s.ctr (s.len.toNat + 32) := by
  simp only [eGetBytes, whenErasable_of_long_key hs hk, keystreamRequest_eq] at h
  cases h
  rfl

theorem port_of_getInt (hs : s.seeded = true) (h : getInt E s = .next t) :
    t.port = s.port ++ drawEvents s (drawsMade E s) := by
  rw [getInt, whenSeeded_of_seeded hs] at h
  obtain ⟨r, hsample⟩ | ⟨c, hc, hsample⟩ := sampleInt_afterDraws E s
  · rw [hsample] at h
    cases h
    rfl
  · rw [hsample] at h
    cases c <;> cases h <;> rfl

theorem port_of_eGetInt (hs : s.seeded = true) (hk : s.keylen = .bits256) (h : eGetInt E s = .next t) :
    t.port = s.port ++ (drawEvents s (drawsMade E s) ++
      if t.err = .ok then requestEvents s (s.ctr + BitVec.ofNat 128 (drawsMade E s)) 32 else []) := by
  rw [eGetInt, whenErasable_of_long_key hs hk] at h
  obtain ⟨r, hsample⟩ | ⟨c, hc, hsample⟩ := sampleInt_afterDraws E s
  · simp only [hsample, keystreamRequest_eq] at h
    cases h
    simp [afterDraws]
  · rw [hsample] at h
    cases c with
    | ok => exact absurd rfl hc
    | _ => cases h; simp [afterDraws]

/-- A command that fails one of the tests before it changes the completion code only; a `RESEED` makes no request at all. -/
theorem port_of_failed_tests {i : Instr} (h : exec i s = .next t)
    (hfail : s.seeded = false ∨ (i.isErasure = true ∧ s.keylen = .bits128)) : t.port = s.port := by
  cases hi : i.isReseed with
  | true =>
    cases i with
    | reseed => exact port_of_reseed h
    | _ => cases hi
  | false =>
    cases hs : s.seeded with
    | false =>
      rw [exec_of_unseeded hi hs] at h
      cases h
      rfl
    | true =>
      obtain ⟨herase, hk⟩ := hfail.resolve_left (by simp [hs])
      rw [exec_of_short_key herase hs hk] at h
      cases h
      rfl

end

/-- Settles O26: past its tests each command's requests are those of its keystream requests and draws. -/
theorem commandsMakeTheseRequests : Obligations.CommandsMakeTheseRequests := by
  intro i s t h
  refine ⟨port_of_failed_tests h, fun hs hlong => ?_⟩
  cases i with
  | reseed slen => simpa using port_of_reseed h
  | seekSet | seekInc =>
    cases (whenSeeded_of_seeded hs).symm.trans h
    exact (List.append_nil _).symm
  | getBytes => exact port_of_getBytes hs h
  | getInt => exact port_of_getInt hs h
  | eSeekSet | eSeekInc =>
    cases (whenErasable_of_long_key hs (hlong rfl)).symm.trans h
    exact (List.append_nil _).symm
  | eGetBytes => exact port_of_eGetBytes hs (hlong rfl) h
  | eGetInt => exact port_of_eGetInt hs (hlong rfl) h

end Sys2Proof.Machine
end

section
/-! The command word and its fields: the fields determine the word, so that the decoder and the encoder invert each other, and
the opcode map and the list of illegal words are read off the fields (30_encoding.md R81 to R89). -/

namespace Sys2Proof

/-! ## A word and its fields (30_encoding.md R81) -/

/-- A bit of a command word is a bit of the field it lies in. -/
theorem getLsbD_commandWord (op : BitVec 4) (e mode : BitVec 1) (slen : BitVec 6) (i : Nat) :
    (commandWord op e mode slen).getLsbD i =
      (op.getLsbD i || (decide (4 ≤ i) && e.getLsbD (i - 4)) || (decide (5 ≤ i) && mode.getLsbD (i - 5)) ||
        (decide (8 ≤ i) && slen.getLsbD (i - 8))) := by
  simp only [commandWord, BitVec.getLsbD_or, BitVec.getLsbD_shiftLeft, BitVec.getLsbD_setWidth]
  grind

/-- The fields a word is put together from are its fields, and its reserved bits are 0. -/
theorem fields_of_commandWord (op : BitVec 4) (e mode : BitVec 1) (slen : BitVec 6) :
    fieldReservedHigh (commandWord op e mode slen) = 0 ∧ fieldReservedLow (commandWord op e mode slen) = 0 ∧
    fieldOp (commandWord op e mode slen) = op ∧ fieldE (commandWord op e mode slen) = e ∧
    fieldMode (commandWord op e mode slen) = mode ∧ fieldSlen (commandWord op e mode slen) = slen := by
  refine ⟨?_, ?_, ?_, ?_, ?_, ?_⟩
  all_goals
    apply BitVec.eq_of_getLsbD_eq
    intro i hi
    simp only [fieldReservedHigh, fieldReservedLow, fieldOp, fieldE, fieldMode, fieldSlen, BitVec.getLsbD_extractLsb',
      getLsbD_commandWord]
    grind

/-- A word with no reserved bit set is put together from its fields. -/
theorem commandWord_of_fields {w : Word} (hhigh : fieldReservedHigh w = 0) (hlow : fieldReservedLow w = 0) :
    commandWord (fieldOp w) (fieldE w) (fieldMode w) (fieldSlen w) = w := by
  apply BitVec.eq_of_getLsbD_eq
  intro i hi
  have hhigh' : 14 ≤ i → w.getLsbD i = false := fun h => by
    have hbit := congrArg (BitVec.getLsbD · (i - 14)) hhigh
    simpa [fieldReservedHigh, show i - 14 < 18 by omega, show 14 + (i - 14) = i by omega] using hbit
  have hlow' : 6 ≤ i → i < 8 → w.getLsbD i = false := fun h h8 => by
    have hbit := congrArg (BitVec.getLsbD · (i - 6)) hlow
    simpa [fieldReservedLow, show i - 6 < 2 by omega, show 6 + (i - 6) = i by omega] using hbit
  simp only [getLsbD_commandWord, fieldOp, fieldE, fieldMode, fieldSlen, BitVec.getLsbD_extractLsb']
  grind

/-! ## The fields of each command (30_encoding.md R81, R86) -/

/-- `OP` of a command. -/
def Instr.opField : Instr → BitVec 4
  | .reseed _ => 1
  | .seekSet | .seekInc | .eSeekSet | .eSeekInc => 2
  | .getBytes | .eGetBytes => 3
  | .getInt | .eGetInt => 4

/-- `E` of a command. -/
def Instr.eField (i : Instr) : BitVec 1 := BitVec.ofBool i.isErasure

/-- `MODE` of a command: 1 on the two relative seeks (30_encoding.md R82). -/
def Instr.modeField : Instr → BitVec 1
  | .seekInc | .eSeekInc => 1
  | .reseed _ | .seekSet | .getBytes | .getInt | .eSeekSet | .eGetBytes | .eGetInt => 0

/-- The seed length a command carries: 0 on every command but `RESEED` (30_encoding.md R83). -/
def Instr.slen : Instr → Nat
  | .reseed slen => slen
  | .seekSet | .seekInc | .getBytes | .getInt | .eSeekSet | .eSeekInc | .eGetBytes | .eGetInt => 0

/-- The encoder puts a command's fields together. -/
theorem encode_eq_commandWord (i : Instr) :
    encode i = commandWord i.opField i.eField i.modeField (BitVec.ofNat 6 i.slen) := by
  cases i <;> rfl

theorem wellFormed_iff_slen_le (i : Instr) : i.wellFormed = true ↔ i.slen ≤ 63 := by
  cases i with
  | reseed slen => simp [Instr.wellFormed, Instr.slen]
  | _ => simp [Instr.wellFormed, Instr.slen]

/-- A bit that is not the one value is the other. -/
theorem bit_ne_zero_iff {b : BitVec 1} : ¬ b = 0#1 ↔ b = 1#1 := by revert b; decide

theorem bit_ne_one_iff {b : BitVec 1} : ¬ b = 1#1 ↔ b = 0#1 := by revert b; decide

/-- The decoder, forwards: reserved bits 0 and the fields of a command make that command (30_encoding.md R87). -/
theorem decode_of_fields {w : Word} {i : Instr} (hhigh : fieldReservedHigh w = 0) (hlow : fieldReservedLow w = 0)
    (hop : fieldOp w = i.opField) (he : fieldE w = i.eField) (hmode : fieldMode w = i.modeField)
    (hslen : (fieldSlen w).toNat = i.slen) : decode w = .ok i := by
  cases i with
  | reseed slen => simp_all [decode, Instr.opField, Instr.eField, Instr.modeField, Instr.slen, Instr.isErasure]
  | _ =>
    have hzero : fieldSlen w = 0 := BitVec.eq_of_toNat_eq hslen
    simp [decode, hhigh, hlow, hop, he, hmode, hzero, Instr.opField, Instr.eField, Instr.modeField, Instr.isErasure]

/-- The decoder, backwards: each branch that accepts has tested every field (30_encoding.md R87, R89). -/
theorem fields_of_decode {w : Word} {i : Instr} (h : decode w = .ok i) :
    fieldReservedHigh w = 0 ∧ fieldReservedLow w = 0 ∧ fieldOp w = i.opField ∧ fieldE w = i.eField ∧
      fieldMode w = i.modeField ∧ (fieldSlen w).toNat = i.slen := by
  rw [decode] at h
  split_ifs at h <;> cases h <;>
    simp_all [bit_ne_zero_iff, bit_ne_one_iff, Instr.opField, Instr.eField, Instr.modeField, Instr.slen, Instr.isErasure]

/-! ## The round trips -/

theorem decode_encode {i : Instr} (h : i.wellFormed = true) : decode (encode i) = .ok i := by
  have hslen : i.slen % 2 ^ 6 = i.slen := Nat.mod_eq_of_lt (Nat.lt_succ_of_le ((wellFormed_iff_slen_le i).mp h))
  obtain ⟨hhigh, hlow, hop, he, hmode, hfield⟩ :=
    fields_of_commandWord i.opField i.eField i.modeField (BitVec.ofNat 6 i.slen)
  rw [encode_eq_commandWord]
  exact decode_of_fields hhigh hlow hop he hmode (by rw [hfield, BitVec.toNat_ofNat, hslen])

theorem encode_of_decode {w : Word} {i : Instr} (h : decode w = .ok i) : encode i = w := by
  obtain ⟨hhigh, hlow, hop, he, hmode, hslen⟩ := fields_of_decode h
  rw [encode_eq_commandWord, ← hop, ← he, ← hmode, ← hslen, BitVec.ofNat_toNat, BitVec.setWidth_eq]
  exact commandWord_of_fields hhigh hlow

theorem wellFormed_of_decode {w : Word} {i : Instr} (h : decode w = .ok i) : i.wellFormed = true := by
  obtain ⟨-, -, -, -, -, hslen⟩ := fields_of_decode h
  rw [wellFormed_iff_slen_le, ← hslen]
  exact Nat.le_of_lt_succ (fieldSlen w).isLt

/-- Settles O1: the encoder puts the command's fields together, and the decoder reads them back. -/
theorem decodeInvertsEncode : Obligations.DecodeInvertsEncode := fun _ h => decode_encode h

/-- Settles O2: a word that decodes has the command's fields and no other bit. -/
theorem encodeInvertsDecode : Obligations.EncodeInvertsDecode :=
  fun _ _ h => ⟨wellFormed_of_decode h, encode_of_decode h⟩

/-- Settles O5: sixteen closed words, each decoded by evaluation. -/
theorem specWordsDecode : Obligations.SpecWordsDecode := by
  unfold Obligations.SpecWordsDecode
  decide

/-! ## The opcode map (30_encoding.md R86) -/

/-- The word of a well-formed command is selected by the row of its mnemonic and by no other, for every command. -/
theorem selects_encode {i : Instr} (h : i.wellFormed = true) {r : OpcodeRow} (hr : r ∈ opcodeTable) :
    r.selects (encode i) = decide (r.mnemonic = i.mnemonic) := by
  cases i with
  | reseed slen => exact Laws.TableRow.reseed slen h r hr
  | seekSet => exact Laws.TableRow.seekSet h r hr
  | seekInc => exact Laws.TableRow.seekInc h r hr
  | getBytes => exact Laws.TableRow.getBytes h r hr
  | getInt => exact Laws.TableRow.getInt h r hr
  | eSeekSet => exact Laws.TableRow.eSeekSet h r hr
  | eSeekInc => exact Laws.TableRow.eSeekInc h r hr
  | eGetBytes => exact Laws.TableRow.eGetBytes h r hr
  | eGetInt => exact Laws.TableRow.eGetInt h r hr

/-- A field on which a row's mask is all ones is the row's. -/
theorem field_of_mask {w mask p : Word} (h : w &&& mask = p) {lo len : Nat}
    (hones : mask.extractLsb' lo len = BitVec.allOnes len) : w.extractLsb' lo len = p.extractLsb' lo len := by
  rw [← h, BitVec.extractLsb'_and, hones, BitVec.and_allOnes]

/-- The row of `RESEED` fixes every field but `SLEN`. -/
theorem decode_of_reseed_row {w : Word} (h : w &&& 0xFFFFC0FF = 0x00000001) :
    decode w = .ok (.reseed (fieldSlen w).toNat) :=
  decode_of_fields (field_of_mask h (by decide)) (field_of_mask h (by decide)) (field_of_mask h (by decide))
    (field_of_mask h (by decide)) (field_of_mask h (by decide)) rfl

/-- A row whose mask is all ones selects its own word only. -/
theorem eq_of_full_mask {w p : Word} (h : w &&& 0xFFFFFFFF = p) : w = p :=
  (BitVec.and_allOnes (x := w)).symm.trans h

/-- A row selects a word exactly when the word decodes to a command of the row's mnemonic. -/
theorem selects_iff_decode {r : OpcodeRow} (hr : r ∈ opcodeTable) {w : Word} :
    r.selects w = true ↔ ∃ i, decode w = .ok i ∧ r.mnemonic = i.mnemonic := by
  constructor
  · intro h
    have hw : w &&& r.mask = r.pattern := beq_iff_eq.mp h
    simp only [opcodeTable, List.mem_cons, List.not_mem_nil, or_false] at hr
    obtain rfl | hr := hr
    · exact ⟨_, decode_of_reseed_row hw, rfl⟩
    · obtain rfl | rfl | rfl | rfl | rfl | rfl | rfl | rfl := hr <;> rw [eq_of_full_mask hw] <;> exact ⟨_, rfl, rfl⟩
  · rintro ⟨i, hi, hm⟩
    rw [← encode_of_decode hi, selects_encode (wellFormed_of_decode hi) hr, decide_eq_true hm]

/-- Every command has a row. -/
theorem exists_row (i : Instr) : ∃ r ∈ opcodeTable, r.mnemonic = i.mnemonic := by
  cases i <;> simp [opcodeTable, Instr.mnemonic]

/-- A mnemonic is that of one row. -/
theorem row_eq_of_mnemonic_eq : ∀ r ∈ opcodeTable, ∀ r' ∈ opcodeTable, r.mnemonic = r'.mnemonic → r = r' := by decide

/-- A mnemonic and a seed length tell a command. -/
theorem eq_of_mnemonic_eq {i j : Instr} (hm : i.mnemonic = j.mnemonic)
    (hslen : ∀ slen, j = .reseed slen → slen = i.slen) : i = j := by
  cases j with
  | reseed slen =>
    obtain rfl := hslen slen rfl
    cases i with
    | reseed => rfl
    | _ => simp [Instr.mnemonic] at hm
  | _ => cases i <;> simp [Instr.mnemonic] at hm ⊢

/-- The rows select exactly the words that decode, and `RESEED` takes its seed length from `SLEN`. -/
theorem decode_eq_ok_iff_row {w : Word} {i : Instr} : decode w = .ok i ↔
    ∃ r ∈ opcodeTable, r.selects w = true ∧ r.mnemonic = i.mnemonic ∧
      ∀ slen : Nat, i = .reseed slen → slen = (fieldSlen w).toNat := by
  constructor
  · intro h
    obtain ⟨r, hr, hm⟩ := exists_row i
    refine ⟨r, hr, (selects_iff_decode hr).mpr ⟨i, h, hm⟩, hm, ?_⟩
    rintro slen rfl
    obtain ⟨-, -, -, -, -, hslen⟩ := fields_of_decode h
    exact hslen.symm
  · rintro ⟨r, hr, hsel, hm, hslen⟩
    obtain ⟨j, hj, hmj⟩ := (selects_iff_decode hr).mp hsel
    obtain ⟨-, -, -, -, -, hjslen⟩ := fields_of_decode hj
    rw [hj, eq_of_mnemonic_eq (hmj.symm.trans hm) fun slen hi => (hslen slen hi).trans hjslen]

/-- A word is illegal exactly when no row selects it. -/
theorem no_row_selects_iff {w : Word} : (∀ r ∈ opcodeTable, r.selects w = false) ↔ ∃ e, decode w = .error e := by
  cases hw : decode w with
  | error e =>
    refine iff_of_true (fun r hr => ?_) ⟨e, rfl⟩
    rw [Bool.eq_false_iff, Ne, selects_iff_decode hr, hw]
    simp
  | ok i =>
    obtain ⟨r, hr, hm⟩ := exists_row i
    refine iff_of_false (fun h => ?_) (by simp)
    simpa [h r hr] using (selects_iff_decode hr).mpr ⟨i, hw, hm⟩

/-- Settles O3: a row selects the words that decode to its mnemonic, so two rows that select one word have one mnemonic. -/
theorem opcodeMapSelectsTheCommand : Obligations.OpcodeMapSelectsTheCommand := by
  refine ⟨rfl, fun w i => decode_eq_ok_iff_row, fun w => no_row_selects_iff, fun w r hr r' hr' h h' => ?_,
    by decide, by decide⟩
  obtain ⟨i, hi, hm⟩ := (selects_iff_decode hr).mp h
  obtain ⟨j, hj, hm'⟩ := (selects_iff_decode hr').mp h'
  obtain rfl : i = j := Except.ok.inj (hi.symm.trans hj)
  exact row_eq_of_mnemonic_eq r hr r' hr' (hm.trans hm'.symm)

/-! ## The illegal words (30_encoding.md R88) -/

/-- `OP` is reserved exactly when no command has it. -/
theorem op_reserved_iff {op : BitVec 4} : op = 0 ∨ 5 ≤ op.toNat ↔ op ≠ 1 ∧ op ≠ 2 ∧ op ≠ 3 ∧ op ≠ 4 := by
  revert op; decide

/-- The cases of R88 are those in which the decoder reaches one of its errors. -/
theorem decode_error_iff {w : Word} : (∃ e, decode w = .error e) ↔
    (fieldOp w = 0 ∨ 5 ≤ (fieldOp w).toNat) ∨ fieldReservedLow w ≠ 0 ∨ fieldReservedHigh w ≠ 0 ∨
      (fieldMode w = 1 ∧ fieldOp w ≠ 2) ∨ (fieldSlen w ≠ 0 ∧ fieldOp w ≠ 1) ∨ (fieldOp w = 1 ∧ fieldE w = 1) := by
  rw [op_reserved_iff, decode]
  split_ifs with hres hop hvariant
  · exact iff_of_true ⟨_, rfl⟩ (by tauto)
  · have hseek : fieldOp w ≠ 2 := by rw [hop]; decide
    exact iff_of_true ⟨_, rfl⟩ (by tauto)
  all_goals simp_all

end Sys2Proof

namespace Sys2Proof.Machine

/-! ## A write of a command word (30_encoding.md R80, R88) -/

theorem launch_of_ok {w : Word} {i : Instr} (h : decode w = .ok i) (s : State) :
    launch w s = exec i (beginCommand s) := by
  simp only [launch, h]

theorem launch_of_error {w : Word} {e : IllegalWord} (h : decode w = .error e) (s : State) :
    launch w s = raise .illegalCommand (beginCommand s) := by
  simp only [launch, h]

/-- An idle SSG takes the word the host writes to `CMD`. -/
theorem step_of_command_write {s : State} {w : Word} {rest : List HostAction} (hidle : s.busy = false)
    (h : s.host = .write 0x00 4 w :: rest) : step s = launch w { s with host := rest } := by
  have hidle' : State.busy { s with host := rest } = false := hidle
  have hcmd : regAt 0x00 = some .cmd := rfl
  simp only [step_of_action h, hostAct, hostWrite, accessedReg_word, hcmd, hidle', Bool.false_and, Bool.false_eq_true,
    if_false]

theorem statusErr_of_idle {s : State} (h : s.busy = false) : s.statusErr = s.err := by
  simp [State.statusErr, h]

/-- Settles O4: the decoder's errors are the cases of R88, and the launch of such a word raises `IllegalCommand`. -/
theorem illegalWordsOnlySetErr : Obligations.IllegalWordsOnlySetErr := by
  refine ⟨fun w => decode_error_iff.trans or_assoc, fun s w rest e hidle h hw => ?_⟩
  exact ⟨_, (step_of_command_write hidle h).trans (launch_of_error hw _), statusErr_of_idle hidle, rfl⟩

/-- Settles O9: both times an idle SSG meets a write of the word, and its launch runs the decoded command. -/
theorem stepRunsTheDecodedCommand : Obligations.StepRunsTheDecodedCommand := by
  refine ⟨fun s w i rest hidle h hw => (step_of_command_write hidle h).trans (launch_of_ok hw _), fun s w i hw => ?_,
    fun s h => by simp only [step, h]⟩
  have hword : BitVec.ofNat 32 (w.toNat % 2 ^ 32) = w := by
    rw [Nat.mod_eq_of_lt w.isLt, BitVec.ofNat_toNat, BitVec.setWidth_eq]
  have hfetch : (s.withFetchWord 32 w.toNat).host = .write 0x00 4 w :: s.host :=
    congrArg (fun v => HostAction.write 0x00 4 v :: s.host) hword
  exact (step_of_command_write rfl hfetch).trans (launch_of_ok hw _)

end Sys2Proof.Machine
end

section
/-! An assembler line on an idle SSG: its operand writes load the operand registers word by word, and its last write launches
its command (30_encoding.md R91, 20_memory.md R53). -/

namespace Sys2Proof.Machine

/-! ## Runs of host actions that take an idle SSG from one state to another -/

/-- The state with other actions pending. -/
def State.withHost (s : State) (acts : List HostAction) : State := { s with host := acts }

@[simp] theorem withHost_withHost (s : State) (acts acts' : List HostAction) :
    (s.withHost acts).withHost acts' = s.withHost acts' := rfl

@[simp] theorem withHost_out (s : State) (acts : List HostAction) : (s.withHost acts).out = s.out := rfl

/-- A write does not look at the pending actions. -/
theorem writeReg_withHost (r : HostReg) (w : Word) (s : State) (acts : List HostAction) :
    writeReg r w (s.withHost acts) = (writeReg r w s).withHost acts := by
  cases r <;> rfl

/-- Pending before any others, the actions take `s` to `t`. The pending actions of `s` and `t` themselves are not looked at. -/
def Loads (acts : List HostAction) (s t : State) : Prop :=
  ∀ rest, Sys2Proof.core.run acts.length (s.withHost (acts ++ rest)) = .next (t.withHost rest)

theorem Loads.nil (s : State) : Loads [] s s := fun _ => rfl

theorem run_add_of_run {m n : Nat} {s t : State} (h : Sys2Proof.core.run m s = .next t) :
    Sys2Proof.core.run (m + n) s = Sys2Proof.core.run n t := by
  induction m generalizing s with
  | zero =>
    cases h
    rw [Nat.zero_add]
  | succ m ih =>
    rw [Nat.add_right_comm]
    cases hstep : step s with
    | next u => exact (run_succ_of_step hstep).trans (ih ((run_succ_of_step hstep).symm.trans h))
    | fault r => cases r
    | refused r =>
      have hstep' : Sys2Proof.core.step s = .refused r := hstep
      simp [Host.Core.run, hstep'] at h

theorem Loads.append {acts acts' : List HostAction} {s t u : State} (h : Loads acts s t) (h' : Loads acts' t u) :
    Loads (acts ++ acts') s u := fun rest => by
  rw [List.append_assoc, List.length_append, run_add_of_run (h (acts' ++ rest))]
  exact h' rest

theorem loads_write {s : State} {offset : Nat} {r : HostReg} (hout : s.out = []) (hr : regAt offset = some r)
    (hcmd : r ≠ .cmd) (w : Word) : Loads [write32 offset w] s (writeReg r w s) := fun rest => by
  have hwrite := hostWrite_of_regAt (s := s.withHost rest) (w := w) hr (by simp [State.busy, hout]) hcmd
  rw [writeReg_withHost] at hwrite
  exact run_succ_of_step ((step_of_action (s := s.withHost (write32 offset w :: rest)) rfl).trans hwrite)

/-- Writes of consecutive words, where `state k` is the state after the first `k` of them. -/
theorem loads_words {base : Nat} {word : Nat → Word} {state : Nat → State} {n : Nat}
    (hout : ∀ k, (state k).out = [])
    (hwrite : ∀ k < n, ∃ r, regAt (base + 4 * k) = some r ∧ r ≠ .cmd ∧ writeReg r (word k) (state k) = state (k + 1)) :
    Loads ((List.range n).map fun k => write32 (base + 4 * k) (word k)) (state 0) (state n) := by
  induction n with
  | zero => exact .nil _
  | succ n ih =>
    obtain ⟨r, hr, hcmd, hnext⟩ := hwrite n n.lt_succ_self
    rw [List.range_succ, List.map_append]
    exact (ih fun k hk => hwrite k (Nat.lt_succ_of_lt hk)).append (hnext ▸ loads_write (hout n) hr hcmd (word n))

/-! ## The wide operand registers -/

/-- A register after the first `k` words of `v` have been written to it (20_memory.md R53). -/
def withWords {n : Nat} (old v : BitVec n) : Nat → BitVec n
  | 0 => old
  | k + 1 => setWord (withWords old v k) k (getWord v k)

theorem getWord_withWords {n : Nat} (old v : BitVec n) {j k : Nat} (hjk : j < k) (hk : 32 * k ≤ n) :
    getWord (withWords old v k) j = getWord v j := by
  induction k with
  | zero => omega
  | succ k ih =>
    rw [withWords]
    obtain rfl | hne := eq_or_ne j k
    · exact getWord_setWord _ j _ (by omega)
    · rw [getWord_setWord_of_ne _ _ hne, ih (by omega) (by omega)]

/-- All words written, the register holds the value. -/
theorem withWords_all {m : Nat} (old v : BitVec (32 * m)) : withWords old v m = v := by
  apply BitVec.eq_of_getLsbD_eq
  intro i hi
  have hword := congrArg (BitVec.getLsbD · (i % 32)) (getWord_withWords old v (j := i / 32) (k := m) (by omega) (by omega))
  simpa [getWord, Nat.mod_lt, Nat.div_add_mod] using hword

theorem loads_pos {s : State} (hout : s.out = []) (p : Counter) : Loads (loadPos p) s { s with pos := p } := by
  have h := loads_words (base := 0x10) (word := getWord p) (n := 4)
    (state := fun k => { s with pos := withWords s.pos p k }) (fun _ => hout)
    fun k hk => ⟨.pos ⟨k, hk⟩, regAt_pos ⟨k, hk⟩, by simp, rfl⟩
  rwa [withWords_all (m := 4) s.pos p] at h

theorem loads_min {s : State} (hout : s.out = []) (v : Native) :
    Loads (loadWords 0x20 2 v) s { s with minReg := v } := by
  have h := loads_words (base := 0x20) (word := getWord v) (n := 2)
    (state := fun k => { s with minReg := withWords s.minReg v k }) (fun _ => hout)
    fun k hk => ⟨.min ⟨k, hk⟩, regAt_min ⟨k, hk⟩, by simp, rfl⟩
  rwa [withWords_all (m := 2) s.minReg v] at h

theorem loads_max {s : State} (hout : s.out = []) (v : Native) :
    Loads (loadWords 0x28 2 v) s { s with maxReg := v } := by
  have h := loads_words (base := 0x28) (word := getWord v) (n := 2)
    (state := fun k => { s with maxReg := withWords s.maxReg v k }) (fun _ => hout)
    fun k hk => ⟨.max ⟨k, hk⟩, regAt_max ⟨k, hk⟩, by simp, rfl⟩
  rwa [withWords_all (m := 2) s.maxReg v] at h

/-! ## The staging register (20_memory.md R53, 10_state.md R31) -/

/-- The bytes of a packed word are the bytes packed. -/
theorem byteOfWord_packWord (b0 b1 b2 b3 : Byte) :
    byteOfWord (packWord b0 b1 b2 b3) 0 = b0 ∧ byteOfWord (packWord b0 b1 b2 b3) 1 = b1 ∧
    byteOfWord (packWord b0 b1 b2 b3) 2 = b2 ∧ byteOfWord (packWord b0 b1 b2 b3) 3 = b3 := by
  refine ⟨?_, ?_, ?_, ?_⟩
  all_goals
    apply BitVec.eq_of_getLsbD_eq
    intro i hi
    simp only [byteOfWord, packWord, BitVec.getLsbD_extractLsb', BitVec.getLsbD_or, BitVec.getLsbD_shiftLeft,
      BitVec.getLsbD_setWidth]
    grind

/-- Byte `j` of a seed lies in its word `j div 4` at place `j mod 4`. -/
theorem byteOfWord_seedWord (seed : ByteString) (j : Nat) :
    byteOfWord (seedWord seed (j / 4)) (j % 4) = seed.getD j 0 := by
  obtain ⟨h0, h1, h2, h3⟩ := byteOfWord_packWord (seed.getD (4 * (j / 4)) 0) (seed.getD (4 * (j / 4) + 1) 0)
    (seed.getD (4 * (j / 4) + 2) 0) (seed.getD (4 * (j / 4) + 3) 0)
  have hj := Nat.div_add_mod j 4
  obtain h | h | h | h : j % 4 = 0 ∨ j % 4 = 1 ∨ j % 4 = 2 ∨ j % 4 = 3 := by omega
  all_goals
    rw [h] at hj ⊢
    simp_all [seedWord]

/-- The staging register after the first `k` words of a seed have been written. -/
def withSeedWords (seed : ByteString) (old : SeedBytes) (k : Nat) : SeedBytes :=
  Vector.ofFn fun j : Fin 32 => if j.val < 4 * k then seed.getD j.val 0 else old[j.val]

theorem getElem_withSeedWords (seed : ByteString) (old : SeedBytes) (k j : Nat) (hj : j < 32) :
    (withSeedWords seed old k)[j] = if j < 4 * k then seed.getD j 0 else old[j] := by
  simp [withSeedWords]

theorem withSeedWords_zero (seed : ByteString) (old : SeedBytes) : withSeedWords seed old 0 = old := by
  ext j hj : 1
  simp [getElem_withSeedWords]

theorem withSeedWords_succ (seed : ByteString) (old : SeedBytes) (k : Nat) :
    setSeedWord (withSeedWords seed old k) k (seedWord seed k) = withSeedWords seed old (k + 1) := by
  ext j hj : 1
  have hset := getElem_setSeedWord (withSeedWords seed old k) k (seedWord seed k) ⟨j, hj⟩
  simp only [getElem_withSeedWords] at hset ⊢
  rw [hset]
  by_cases hk : j / 4 = k
  · subst hk
    rw [if_pos rfl, if_pos (by omega)]
    exact byteOfWord_seedWord seed j
  · rw [if_neg hk]
    exact if_congr (by omega) rfl rfl

/-- Eight words fill the register, however long the seed (log entry 15). -/
theorem withSeedWords_staged (seed : ByteString) (old : SeedBytes) :
    withSeedWords seed old (min (ceilDiv seed.length 4) 8) = stagedSeed seed old := by
  ext j hj : 1
  rw [getElem_withSeedWords, stagedSeed, Vector.getElem_ofFn]
  have hreached : j < 4 * min (ceilDiv seed.length 4) 8 ↔ j < 4 * ceilDiv seed.length 4 := by omega
  exact if_congr hreached rfl rfl

theorem loads_seed {s : State} (hout : s.out = []) (seed : ByteString) :
    Loads (loadSeed seed) s { s with seedin := stagedSeed seed s.seedin } := by
  have h := loads_words (base := 0x40) (word := seedWord seed) (n := min (ceilDiv seed.length 4) 8)
    (state := fun k => { s with seedin := withSeedWords seed s.seedin k }) (fun _ => hout)
    fun k hk => ⟨.seedin ⟨k, by omega⟩, regAt_seedin ⟨k, by omega⟩, by simp,
      by rw [writeReg, withSeedWords_succ]⟩
  rwa [withSeedWords_zero, withSeedWords_staged] at h

/-! ## The line -/

/-- The operand writes of a line load its operands and nothing else (30_encoding.md R91). -/
theorem loads_operands (l : AsmLine) {s : State} (hout : s.out = []) : Loads l.operandWrites s (l.loaded s) := by
  cases l with
  | reseed seed counter =>
    exact (loads_seed hout seed).append (loads_pos (s := { s with seedin := stagedSeed seed s.seedin }) hout counter)
  | seekSet p | seekInc p | eSeekSet p | eSeekInc p => exact loads_pos hout p
  | getBytes n | eGetBytes n => exact loads_write (r := .len) hout rfl (by simp) n
  | getInt min max | eGetInt min max =>
    exact (loads_min hout min).append (loads_max (s := { s with minReg := min }) hout max)

theorem out_loaded (l : AsmLine) (s : State) : (l.loaded s).out = s.out := by
  cases l <;> rfl

theorem run_one_of_command_write {s : State} {w : Word} {rest : List HostAction} (hidle : s.busy = false)
    (h : s.host = write32 0x00 w :: rest) : Sys2Proof.core.run 1 s = launch w (s.withHost rest) := by
  obtain ⟨t, ht⟩ := launch_answers w (s.withHost rest)
  exact (run_succ_of_step ((step_of_command_write hidle h).trans ht)).trans ht.symm

/-- Only a `RESEED` with a seed over 63 bytes is ill formed, so only it has no actions. -/
theorem actions_eq_none {l : AsmLine} : l.actions = none ↔ ∃ seed counter, l = .reseed seed counter ∧ 63 < seed.length := by
  cases l with
  | reseed seed counter => simp [AsmLine.actions, AsmLine.instr, Instr.wellFormed]
  | _ => simp [AsmLine.actions, AsmLine.instr, Instr.wellFormed]

/-- Settles O59: the operand writes load the registers, and the last write launches the line's command. -/
theorem assemblerLineLoadsThenLaunches : Obligations.AssemblerLineLoadsThenLaunches := by
  refine ⟨fun l => actions_eq_none, fun l acts h => decode_encode (actions_eq_some.mp h).1,
    fun l acts s rest h hidle hhost => ?_⟩
  obtain ⟨-, rfl⟩ := actions_eq_some.mp h
  rw [List.append_assoc] at hhost
  have hout := out_eq_nil_of_not_busy hidle
  have hload := loads_operands l hout ([write32 0x00 (encode l.instr)] ++ rest)
  rw [State.withHost, ← hhost] at hload
  rw [List.length_append, run_add_of_run hload]
  exact run_one_of_command_write (by simp [State.busy, out_loaded, hout]) rfl

end Sys2Proof.Machine
end

section
/-! The nonce, the increment and the keystream byte by byte (40_getbytes.md R100 to R102). -/

namespace Sys2Proof.Machine

/-! ## The nonce and the increment (40_getbytes.md R100, R101) -/

theorem toNat_getElem_nonce (c : Counter) (j : Fin 16) :
    ((nonce c)[j.val]).toNat = c.toNat / 2 ^ (8 * (15 - j.val)) % 256 := by
  simp [nonce, be128, BitVec.extractLsb'_toNat, Nat.shiftRight_eq_div_pow]

/-- Settles O20: a byte of the nonce is a field of the counter, cut out by division. -/
theorem nonceIsBigEndian : Obligations.NonceIsBigEndian :=
  ⟨toNat_getElem_nonce, by decide⟩

/-- A byte takes the carry of the bytes after it, and passes it on when it overflows (40_getbytes.md R101). -/
theorem addOneWithCarry_cons (x : Byte) (rest : ByteString) :
    addOneWithCarry (x :: rest) =
      if (addOneWithCarry rest).2 then ((x + 1) :: (addOneWithCarry rest).1, x == 255)
      else (x :: (addOneWithCarry rest).1, false) := rfl

theorem length_addOneWithCarry (b : ByteString) : (addOneWithCarry b).1.length = b.length := by
  induction b with
  | nil => rfl
  | cons x rest ih =>
    rw [addOneWithCarry_cons]
    split <;> simp [ih]

/-- The bytes and the carry out of byte 0 together hold the string's integer plus one (40_getbytes.md R101). -/
theorem intBE_addOneWithCarry (b : ByteString) :
    intBE (addOneWithCarry b).1 + (addOneWithCarry b).2.toNat * 256 ^ b.length = intBE b + 1 := by
  induction b with
  | nil => rfl
  | cons x rest ih =>
    rw [addOneWithCarry_cons]
    cases hcarry : (addOneWithCarry rest).2 with
    | false =>
      simp only [hcarry, Bool.toNat_false, zero_mul, add_zero] at ih
      simp [intBE_cons, length_addOneWithCarry, ih, add_assoc]
    | true =>
      have hbyte : (x + 1).toNat + (x == 255).toNat * 256 = x.toNat + 1 := by revert x; decide
      simp only [hcarry, Bool.toNat_true, one_mul] at ih
      simp only [if_true, intBE_cons, length_addOneWithCarry, List.length_cons, pow_succ]
      linear_combination ih + 256 ^ rest.length * hbyte

/-- The integer of the bytes alone: the carry out of byte 0 is dropped (40_getbytes.md R101). -/
theorem intBE_addOneWithCarry_mod (b : ByteString) :
    intBE (addOneWithCarry b).1 = (intBE b + 1) % 256 ^ b.length := by
  have hlt := intBE_lt (addOneWithCarry b).1
  rw [length_addOneWithCarry] at hlt
  rw [← intBE_addOneWithCarry, Nat.add_mul_mod_self_right, Nat.mod_eq_of_lt hlt]

theorem toList_inc128 (b : Block) : (inc128 b).toList = (addOneWithCarry b.toList).1 := by
  apply intBE_inj
  · rw [length_addOneWithCarry, length_toList_block, length_toList_block]
  · rw [inc128, intBE_be128, BitVec.toNat_ofNat, intBE_addOneWithCarry_mod, length_toList_block]
    rfl

/-- Settles O21: both sides hold the block's integer plus one, modulo `2^128`. -/
theorem incrementCarriesThroughAllBytes : Obligations.IncrementCarriesThroughAllBytes :=
  ⟨toList_inc128, inc128_nonce, nonceChain_nonce, by decide, by decide, by decide⟩

/-! ## The keystream (40_getbytes.md R102) -/

@[simp] theorem length_counterBlocks (c : Counter) (k : Nat) : (counterBlocks c k).length = k := by simp [counterBlocks]

theorem counterBlocks_add (c : Counter) (m k : Nat) :
    counterBlocks c (m + k) = counterBlocks c m ++ counterBlocks (c + BitVec.ofNat 128 m) k := by
  simp [counterBlocks, List.range_add, BitVec.ofNat_add, add_assoc]

theorem encryptBlocks_append (E : Cipher) (K : Key) (blocks blocks' : List Block) :
    encryptBlocks E K (blocks ++ blocks') = encryptBlocks E K blocks ++ encryptBlocks E K blocks' :=
  List.flatMap_append

/-- Block `i` supplies the bytes `16i` to `16i + 15`. -/
theorem getElem?_encryptBlocks (E : Cipher) (K : Key) (blocks : List Block) (i : Nat) (j : Fin 16) :
    (encryptBlocks E K blocks)[16 * i + j.val]? = blocks[i]?.map fun b => (E K b)[j.val] := by
  induction blocks generalizing i with
  | nil => simp [encryptBlocks]
  | cons b rest ih =>
    have hcons : encryptBlocks E K (b :: rest) = (E K b).toList ++ encryptBlocks E K rest := rfl
    rw [hcons]
    cases i with
    | zero => rw [List.getElem?_append_left (by simp)]; simp
    | succ i =>
      rw [List.getElem?_append_right (by simp; omega), length_toList_block,
        show 16 * (i + 1) + j.val - 16 = 16 * i + j.val by omega, ih, List.getElem?_cons_succ]

/-- The blocks a request takes hold at least the bytes it asks for. -/
theorem le_length_encryptBlocks (E : Cipher) (K : Key) (c : Counter) (n : Nat) :
    n ≤ (encryptBlocks E K (counterBlocks c (ceilDiv n 16))).length := by
  rw [length_encryptBlocks, length_counterBlocks, ceilDiv_block]
  omega

@[simp] theorem length_ks (E : Cipher) (K : Key) (c : Counter) (n : Nat) : (ks E K c n).length = n := by
  rw [ks, List.length_take_of_le (le_length_encryptBlocks E K c n)]

theorem getElem?_ks (E : Cipher) (K : Key) (c : Counter) {n i : Nat} {j : Fin 16} (h : 16 * i + j.val < n) :
    (ks E K c n)[16 * i + j.val]? = some (E K (nonce (c + BitVec.ofNat 128 i)))[j.val] := by
  have hi : i < ceilDiv n 16 := by rw [ceilDiv_block]; omega
  rw [ks, List.getElem?_take_of_lt h, getElem?_encryptBlocks]
  simp [counterBlocks, hi]

/-- Whole blocks count as themselves. -/
theorem ceilDiv_whole_add (m b : Nat) : ceilDiv (16 * m + b) 16 = m + ceilDiv b 16 := by
  rw [ceilDiv_block, ceilDiv_block]
  omega

theorem ceilDiv_whole (m : Nat) : ceilDiv (16 * m) 16 = m := ceilDiv_whole_add m 0

/-- Split after whole blocks, a keystream is that of the blocks and that of the counter after them (40_getbytes.md R109). -/
theorem ks_add (E : Cipher) (K : Key) (c : Counter) (m b : Nat) :
    ks E K c (16 * m + b) = ks E K c (16 * m) ++ ks E K (c + BitVec.ofNat 128 m) b := by
  have hlen : (encryptBlocks E K (counterBlocks c m)).length = 16 * m := by
    rw [length_encryptBlocks, length_counterBlocks]
  simp only [ks, ceilDiv_whole, ceilDiv_whole_add, counterBlocks_add, encryptBlocks_append]
  rw [← hlen, List.take_length_add_append, List.take_length]

/-- A counter some blocks on is the sum modulo `2^128` (40_getbytes.md R102). -/
theorem ofNat_counter_add (c : Counter) (i : Nat) :
    BitVec.ofNat 128 ((c.toNat + i) % 2 ^ 128) = c + BitVec.ofNat 128 i := by
  apply BitVec.eq_of_toNat_eq
  simp

/-- Settles O22: the byte is found in its block, and the truncation leaves it. -/
theorem keystreamBytesComeBlockByBlock : Obligations.KeystreamBytesComeBlockByBlock :=
  fun E K c n => ⟨length_ks E K c n, fun i j h => by rw [getElem?_ks E K c h, ofNat_counter_add]⟩

end Sys2Proof.Machine
end

section
/-! The keystream request and `GETBYTES` (40_getbytes.md R107 to R111). -/

namespace Sys2Proof.Machine

/-! ## The keystream request (40_getbytes.md R107) -/

@[simp] theorem keystreamRequest_ctr (E : Cipher) (n : Nat) (s : State) :
    (keystreamRequest E n s).2.ctr = s.ctr + BitVec.ofNat 128 (ceilDiv n 16) := by
  rw [keystreamRequest_eq, advance_ctr]

/-- Settles O24: the request is the keystream and an advance by whole blocks, and these are counted range by range. -/
theorem requestAdvancesByWholeBlocks : Obligations.RequestAdvancesByWholeBlocks := by
  refine ⟨fun E n s => ⟨by rw [keystreamRequest_eq], ?_, by rw [keystreamRequest_eq]; rfl⟩, fun E n s => ⟨?_, ?_, ?_⟩⟩
  · rw [keystreamRequest_ctr, ceilDiv_block, BitVec.toNat_add, BitVec.toNat_ofNat, Nat.add_mod_mod]
  · rintro rfl
    rw [keystreamRequest_ctr, ceilDiv_block]
    exact BitVec.add_zero s.ctr
  · rintro ⟨hlo, hhi⟩
    have hone : (n + 15) / 16 = 1 := by omega
    rw [keystreamRequest_ctr, ceilDiv_block, hone]
    rfl
  · rintro ⟨hlo, hhi⟩
    have htwo : (n + 15) / 16 = 2 := by omega
    rw [keystreamRequest_ctr, ceilDiv_block, htwo]
    rfl

/-! ## GETBYTES (40_getbytes.md R108 to R111) -/

theorem getBytes_of_seeded (E : Cipher) {s : State} (h : s.seeded = true) :
    getBytes E s = .next { s with
      ctr := s.ctr + BitVec.ofNat 128 (ceilDiv s.len.toNat 16)
      out := ks E s.key s.ctr s.len.toNat
      err := .ok
      port := s.port ++ requestEvents s s.ctr s.len.toNat } := by
  rw [getBytes, whenSeeded_of_seeded h, keystreamRequest_eq]
  rfl

/-- Settles O27: past the test, the command hands out what its keystream request answers. -/
theorem getBytesReturnsKeystream : Obligations.GetBytesReturnsKeystream :=
  ⟨by decide, fun _ => getBytes_of_seeded Config.cipherE, fun _ => exec_of_unseeded rfl⟩

/-- Settles O29: no byte takes no block and no request. -/
theorem getBytesOfZeroLength : Obligations.GetBytesOfZeroLength := by
  refine ⟨fun s hs hlen => ?_, fun s hs _ => exec_of_unseeded rfl hs⟩
  have hnone : s.len.toNat = 0 := by rw [hlen]; rfl
  refine (getBytes_of_seeded Config.cipherE hs).trans ?_
  simp [hnone, ks, ceilDiv]

/-- Settles O30: a counter past the top is the sum less `2^128`, at the end and at each block before it. -/
theorem counterWrapsAtTheTop : Obligations.CounterWrapsAtTheTop := by
  intro s hs htop
  have hlen : s.len.toNat < 2 ^ 32 := s.len.isLt
  have hctr : s.ctr.toNat < 2 ^ 128 := s.ctr.isLt
  refine ⟨_, getBytes_of_seeded Config.cipherE hs, ?_, fun i j hi hij => ?_⟩
  · simp only [BitVec.toNat_add, BitVec.toNat_ofNat, Nat.add_mod_mod]
    rw [ceilDiv_block] at htop ⊢
    omega
  · have hwrap : (s.ctr.toNat + i) % 2 ^ 128 = i - (2 ^ 128 - s.ctr.toNat) := by omega
    rw [← hwrap, ofNat_counter_add]
    exact getElem?_ks Config.cipherE s.key s.ctr hij

/-! ## Requests one after the other (40_getbytes.md R109) -/

/-- Split at a whole number of blocks, `GETBYTES` is contiguous. -/
theorem getBytes_contiguous (E : Cipher) {s : State} (hs : s.seeded = true) {a b : Nat} (ha : a % 16 = 0)
    (hab : a + b < 2 ^ 32) :
    ∃ t u v : State,
      getBytes E { s with len := BitVec.ofNat 32 a } = .next t ∧
      getBytes E { t with len := BitVec.ofNat 32 b, out := [] } = .next u ∧
      getBytes E { s with len := BitVec.ofNat 32 (a + b) } = .next v ∧
      t.out ++ u.out = v.out ∧ u.ctr = v.ctr := by
  obtain ⟨m, rfl⟩ := Nat.dvd_of_mod_eq_zero ha
  have hla : (BitVec.ofNat 32 (16 * m)).toNat = 16 * m := Nat.mod_eq_of_lt (by omega)
  have hlb : (BitVec.ofNat 32 b).toNat = b := Nat.mod_eq_of_lt (by omega)
  have hlab : (BitVec.ofNat 32 (16 * m + b)).toNat = 16 * m + b := Nat.mod_eq_of_lt hab
  refine ⟨_, _, _, getBytes_of_seeded E hs, getBytes_of_seeded E hs, getBytes_of_seeded E hs, ?_, ?_⟩
  · simp only [hla, hlb, hlab, ceilDiv_whole]
    exact (ks_add E s.key s.ctr m b).symm
  · simp only [hla, hlb, hlab, ceilDiv_whole, ceilDiv_whole_add]
    rw [BitVec.ofNat_add, add_assoc]

/-- A seeded SSG with its counter at 1. -/
def seededAtOne : State := { State.resetWith ⟨true, true⟩ with seeded := true, ctr := 1 }

/-- The byte the split request skips is the last one of `NONCE(1)`, which is 1; the byte it returns instead is the first one of
`NONCE(2)`, which is 0. -/
theorem split_inside_block_differs :
    ks (fun _ b => b) seededAtOne.key 1 15 ++ ks (fun _ b => b) seededAtOne.key 2 1 ≠
      ks (fun _ b => b) seededAtOne.key 1 16 := by
  decide

/-- Settles O28: `ks_add` at whole blocks; inside a block, the cipher that returns the block and 15 + 1 bytes at counter 1. -/
theorem outputIsContiguousAcrossCalls : Obligations.OutputIsContiguousAcrossCalls :=
  ⟨fun _ _ _ hs ha hab => getBytes_contiguous Config.cipherE hs ha hab,
    fun _ b => b, seededAtOne, _, _, _, rfl, getBytes_of_seeded _ rfl, getBytes_of_seeded _ rfl, getBytes_of_seeded _ rfl,
    split_inside_block_differs⟩

end Sys2Proof.Machine
end

section
/-! No command's outcome depends on the backend or the capability inputs (40_getbytes.md R106): whatever they are, each command
goes through the same states but for `BSEL`, `CAP` and the recorded requests. -/

namespace Sys2Proof.Machine

/-- The state with another backend, other capability inputs and other recorded requests. -/
def State.withBackend (b : Backend) (caps : Caps) (p : List PortEvent) (s : State) : State :=
  { s with bsel := b, cap := caps, port := p }

/-- Both answers are next states, and the second is the first with the capability inputs `caps`, some backend and some recorded
requests. -/
def DiffersInBackend (caps : Caps) (a a' : Answer) : Prop :=
  ∃ t b p, a = .next t ∧ a' = .next (t.withBackend b caps p)

section
variable (b : Backend) (caps : Caps) (p : List PortEvent) (E : Cipher) (s : State)

/-! ## The shared ends and tests of a command -/

theorem differsInBackend_raise (c : CompletionCode) : DiffersInBackend caps (raise c s) (raise c (s.withBackend b caps p)) :=
  ⟨_, b, p, rfl, rfl⟩

theorem differsInBackend_complete : DiffersInBackend caps (complete s) (complete (s.withBackend b caps p)) :=
  differsInBackend_raise b caps p s .ok

theorem differsInBackend_whenSeeded {body body' : Answer} (hbody : DiffersInBackend caps body body') :
    DiffersInBackend caps (whenSeeded s body) (whenSeeded (s.withBackend b caps p) body') := by
  cases hs : s.seeded with
  | false =>
    rw [whenSeeded_of_unseeded hs, whenSeeded_of_unseeded (s := s.withBackend b caps p) hs]
    exact differsInBackend_raise b caps p s .notSeeded
  | true => rwa [whenSeeded_of_seeded hs, whenSeeded_of_seeded (s := s.withBackend b caps p) hs]

theorem differsInBackend_whenErasable {body body' : Answer} (hbody : DiffersInBackend caps body body') :
    DiffersInBackend caps (whenErasable s body) (whenErasable (s.withBackend b caps p) body') := by
  refine differsInBackend_whenSeeded b caps p s ?_
  cases hk : s.keylen with
  | bits128 => simpa [State.withBackend, hk] using differsInBackend_raise b caps p s .illegalCommand
  | bits256 => simpa [State.withBackend, hk] using hbody

/-! ## The draws depend on the key, the counter and the operands only -/

@[simp] theorem operandMin_withBackend : operandMin (s.withBackend b caps p) = operandMin s := rfl

@[simp] theorem operandMax_withBackend : operandMax (s.withBackend b caps p) = operandMax s := rfl

theorem firstAccepted_withBackend : firstAccepted E (s.withBackend b caps p) = firstAccepted E s := rfl

/-- The integer engine ends with the same code and value, at the same counter (41_getint.md R137). -/
theorem sampleInt_withBackend :
    ∃ p', sampleInt E (s.withBackend b caps p) = ((sampleInt E s).1, (sampleInt E s).2.withBackend b caps p') := by
  obtain hlt | heq | hgt := lt_trichotomy (operandMin s) (operandMax s)
  · have hloop := drawLoop_eq E hlt
    have hloop' := drawLoop_eq E (s := s.withBackend b caps p) hlt
    rw [operandMin_withBackend, operandMax_withBackend, firstAccepted_withBackend] at hloop'
    refine ⟨p ++ drawEvents (s.withBackend b caps p) (drawsMade E s), ?_⟩
    cases hfirst : firstAccepted E s with
    | some _ | none => simp [sampleInt, hlt.not_gt, hlt.ne, hloop, hloop', hfirst]; rfl
  · exact ⟨p, by simp [sampleInt, heq]; rfl⟩
  · exact ⟨p, by simp [sampleInt, hgt]⟩

/-! ## The commands: by `keystreamRequest_eq` the backend reaches a keystream request's record only -/

theorem execReseed_differsInBackend (slen : Nat) :
    DiffersInBackend caps (execReseed slen s) (execReseed slen (s.withBackend b caps p)) := by
  unfold execReseed
  cases keyLenOfSeed slen with
  | none => exact differsInBackend_raise b caps p (clearStaging s) .invalidSeedLength
  | some k => exact ⟨_, backend caps k, p, rfl, rfl⟩

theorem getBytes_differsInBackend : DiffersInBackend caps (getBytes E s) (getBytes E (s.withBackend b caps p)) := by
  refine differsInBackend_whenSeeded b caps p s ?_
  simp only [keystreamRequest_eq]
  exact ⟨_, b, _, rfl, rfl⟩

theorem eGetBytes_differsInBackend : DiffersInBackend caps (eGetBytes E s) (eGetBytes E (s.withBackend b caps p)) := by
  refine differsInBackend_whenErasable b caps p s ?_
  simp only [keystreamRequest_eq]
  exact ⟨_, backend caps .bits256, _, rfl, rfl⟩

theorem getInt_differsInBackend : DiffersInBackend caps (getInt E s) (getInt E (s.withBackend b caps p)) := by
  refine differsInBackend_whenSeeded b caps p s ?_
  obtain ⟨p', hsample⟩ := sampleInt_withBackend b caps p E s
  rw [hsample]
  obtain ⟨c, s'⟩ := sampleInt E s
  cases c with
  | ok => exact differsInBackend_complete b caps p' s'
  | _ => exact differsInBackend_raise b caps p' s' _

theorem eGetInt_differsInBackend : DiffersInBackend caps (eGetInt E s) (eGetInt E (s.withBackend b caps p)) := by
  refine differsInBackend_whenErasable b caps p s ?_
  obtain ⟨p', hsample⟩ := sampleInt_withBackend b caps p E s
  rw [hsample]
  obtain ⟨c, s'⟩ := sampleInt E s
  cases c with
  | ok =>
    simp only [keystreamRequest_eq]
    exact ⟨_, backend caps .bits256, _, rfl, rfl⟩
  | _ => exact differsInBackend_raise b caps p' s' _

/-- A command started with another backend ends with that backend, or with the one its replace selects from the new inputs. -/
theorem exec_differsInBackend (i : Instr) : DiffersInBackend caps (exec i s) (exec i (s.withBackend b caps p)) := by
  cases i with
  | reseed slen => exact execReseed_differsInBackend b caps p s slen
  | seekSet | seekInc => exact differsInBackend_whenSeeded b caps p s ⟨_, b, p, rfl, rfl⟩
  | getBytes => exact getBytes_differsInBackend b caps p Config.cipherE s
  | getInt => exact getInt_differsInBackend b caps p Config.cipherE s
  | eSeekSet | eSeekInc => exact differsInBackend_whenErasable b caps p s ⟨_, b, p, rfl, rfl⟩
  | eGetBytes => exact eGetBytes_differsInBackend b caps p Config.cipherE s
  | eGetInt => exact eGetInt_differsInBackend b caps p Config.cipherE s

end

/-- Settles O25, with the requests recorded so far left as they are. -/
theorem backendIsUnobservable : Obligations.BackendIsUnobservable := by
  intro i s b caps
  obtain ⟨t, b', p', ht, ht'⟩ := exec_differsInBackend b caps s.port s i
  exact ⟨t, _, ht, ht', rfl⟩

end Sys2Proof.Machine
end

section
/-! The range analysis, for every native width (41_getint.md R133 to R135, R139, R143): how many bits and bytes a draw has, which
values it takes, and which integer each of them stands for. -/

namespace Sys2Proof.Machine

/-! ## The two's complement reading (00_scope.md R13) -/

/-- A word has twice as many patterns as its signed reading has non-negative values. -/
theorem two_pow_width {W : Nat} (hW : 0 < W) : 2 ^ W = 2 * 2 ^ (W - 1) := by rw [← pow_succ', Nat.sub_add_cancel hW]

theorem two_pow_cast (k : Nat) : (2 : Int) ^ k = (2 ^ k : Nat) := by norm_cast

/-- The reading of a pattern over one power of two, the number of non-negative values. -/
theorem sintW_eq {W : Nat} (hW : 0 < W) (v : Nat) :
    sintW W v = if v < 2 ^ (W - 1) then (v : Int) else (v : Int) - 2 * (2 ^ (W - 1) : Nat) := by
  rw [sintW, two_pow_cast, two_pow_width hW, Nat.cast_mul, Nat.cast_two]

theorem sintW_bounds {W v : Nat} (hW : 0 < W) (hv : v ≤ 2 ^ W - 1) :
    -2 ^ (W - 1) ≤ sintW W v ∧ sintW W v ≤ 2 ^ (W - 1) - 1 := by
  have hpos : 0 < 2 ^ (W - 1) := Nat.two_pow_pos _
  rw [two_pow_width hW] at hv
  rw [sintW_eq hW, two_pow_cast]
  generalize 2 ^ (W - 1) = n at *
  split <;> omega

/-- Every signed `W`-bit integer is the reading of exactly one pattern. -/
theorem existsUnique_sintW {W : Nat} {r : Int} (hW : 0 < W) (hlo : -2 ^ (W - 1) ≤ r) (hhi : r ≤ 2 ^ (W - 1) - 1) :
    ∃! v : Nat, v ≤ 2 ^ W - 1 ∧ sintW W v = r := by
  simp only [sintW_eq hW, two_pow_width hW]
  rw [two_pow_cast] at hlo hhi
  generalize 2 ^ (W - 1) = n at *
  rcases lt_or_ge r 0 with hneg | hnonneg
  · refine ⟨(r + 2 * n).toNat, ⟨by omega, ?_⟩, ?_⟩
    · rw [if_neg (by omega)]
      omega
    · rintro v ⟨hv, hread⟩
      split at hread <;> omega
  · refine ⟨r.toNat, ⟨by omega, ?_⟩, ?_⟩
    · rw [if_pos (by omega)]
      omega
    · rintro v ⟨hv, hread⟩
      split at hread <;> omega

/-- A native integer written to `RESULT` reads back as itself (41_getint.md R130). -/
theorem sintW_ofInt {r : Int} (hlo : -2 ^ 63 ≤ r) (hhi : r ≤ 2 ^ 63 - 1) : sintW 64 (BitVec.ofInt 64 r).toNat = r := by
  rw [sintW_native, BitVec.toInt_ofInt]
  exact Int.bmod_eq_of_le (by omega) (by omega)

/-! ## The draw value (41_getint.md R135) -/

/-- `int_le` is the sum of the bytes by weight (00_scope.md R13). -/
theorem intLE_eq_sum (b : ByteString) : intLE b = ∑ i ∈ Finset.range b.length, (b.getD i 0).toNat * 2 ^ (8 * i) := by
  induction b with
  | nil => rfl
  | cons x rest ih =>
    have hweight (i : Nat) : 2 ^ (8 * (i + 1)) = 256 * 2 ^ (8 * i) := by
      rw [mul_add, pow_add, mul_comm]
      rfl
    rw [List.length_cons, Finset.sum_range_succ', intLE, ih, Finset.mul_sum, add_comm]
    simp [hweight, mul_left_comm]

theorem drawValue_le_mask (p : Sampling) (b : ByteString) : drawValue p b ≤ p.mask := Nat.and_le_right

theorem accepts_iff {min max cand : Int} : accepts min max cand = true ↔ min ≤ cand ∧ cand ≤ max := by simp [accepts]

/-! ## The range analysis (41_getint.md R133, R134) -/

/-- The number of bits of the range `max - min`. -/
def rangeBits (min max : Int) : Nat := bitlen (max - min).toNat

theorem rangeBits_spec {min max : Int} (h : min < max) :
    1 ≤ rangeBits min max ∧ 2 ^ (rangeBits min max - 1) ≤ max - min ∧ max - min < 2 ^ rangeBits min max := by
  obtain ⟨hpos, hlo, hhi⟩ := bitlen_spec (r := (max - min).toNat) (by omega)
  zify at hlo hhi
  rw [Int.toNat_of_nonneg (by omega)] at hlo hhi
  exact ⟨hpos, hlo, hhi⟩

/-- The range has at most the bits of any power of two above it. -/
theorem rangeBits_le {min max : Int} (h : min < max) {b : Nat} (hb : max - min < 2 ^ b) : rangeBits min max ≤ b := by
  obtain ⟨-, hlo, -⟩ := rangeBits_spec h
  have hpow := (pow_lt_pow_iff_right₀ (one_lt_two (α := Int))).mp (hlo.trans_lt hb)
  omega

theorem lt_rangeBits {min max : Int} (h : min < max) {b : Nat} (hb : 2 ^ b ≤ max - min) : b < rangeBits min max := by
  obtain ⟨-, -, hhi⟩ := rangeBits_spec h
  exact (pow_lt_pow_iff_right₀ (one_lt_two (α := Int))).mp (hb.trans_lt hhi)

/-- The test for the wide case asks whether the exact range fits the native signed integer (41_getint.md R132). -/
theorem wide_iff {W : Nat} {min max : Int} : (max - min).toNat > 2 ^ (W - 1) - 1 ↔ 2 ^ (W - 1) - 1 < max - min := by
  have hpos : 0 < 2 ^ (W - 1) := Nat.two_pow_pos _
  rw [two_pow_cast]
  generalize 2 ^ (W - 1) = n at *
  omega

theorem rangeAnalysis_narrow {W : Nat} {min max : Int} (h : max - min ≤ 2 ^ (W - 1) - 1) :
    rangeAnalysis W min max = ⟨false, ceilDiv (rangeBits min max) 8, 2 ^ rangeBits min max - 1⟩ := by
  simp only [rangeAnalysis, wide_iff, h.not_gt, if_false, rangeBits]

theorem rangeAnalysis_wide {W : Nat} {min max : Int} (h : 2 ^ (W - 1) - 1 < max - min) :
    rangeAnalysis W min max = ⟨true, W / 8, 2 ^ W - 1⟩ := by
  simp only [rangeAnalysis, wide_iff, h, if_true]

section
variable {W : Nat} {min max : Int} (hW : 0 < W) (hlo : -2 ^ (W - 1) ≤ min) (hlt : min < max) (hhi : max ≤ 2 ^ (W - 1) - 1)
include hW hlo hlt hhi

/-- In the wide case the range has as many bits as the native integer. -/
theorem rangeBits_wide (h : 2 ^ (W - 1) - 1 < max - min) : rangeBits min max = W := by
  have hpow : (2 : Int) ^ W = 2 * 2 ^ (W - 1) := mod_cast two_pow_width hW
  have hle := rangeBits_le hlt (b := W) (by omega)
  have hgt := lt_rangeBits hlt (b := W - 1) (by omega)
  omega

/-- In both cases the mask is that of the least number of bits that cover the range. -/
theorem mask_rangeAnalysis : (rangeAnalysis W min max).mask = 2 ^ rangeBits min max - 1 := by
  rcases le_or_gt (max - min) (2 ^ (W - 1) - 1) with hnarrow | hwide
  · rw [rangeAnalysis_narrow hnarrow]
  · rw [rangeAnalysis_wide hwide, rangeBits_wide hW hlo hlt hhi hwide]

/-- Each value of the range is the candidate of one value of a draw (41_getint.md R139). -/
theorem existsUnique_candidate {r : Int} (hmin : min ≤ r) (hmax : r ≤ max) :
    ∃! v : Nat, v ≤ (rangeAnalysis W min max).mask ∧ candidateOf W (rangeAnalysis W min max) min v = r := by
  rcases le_or_gt (max - min) (2 ^ (W - 1) - 1) with hnarrow | hwide
  · have hmask : max - min ≤ ((2 ^ rangeBits min max - 1 : Nat) : Int) := by
      obtain ⟨-, -, hcover⟩ := rangeBits_spec hlt
      rw [Nat.cast_sub Nat.one_le_two_pow]
      push_cast
      omega
    simp only [rangeAnalysis_narrow hnarrow, candidateOf, Bool.false_eq_true, if_false]
    exact ⟨(r - min).toNat, ⟨by omega, by omega⟩, fun v ⟨_, hv⟩ => by omega⟩
  · simp only [rangeAnalysis_wide hwide, candidateOf, if_true]
    exact existsUnique_sintW hW (by omega) (by omega)

/-- More than half of the values of a draw are accepted (41_getint.md R139). -/
theorem mask_lt_twice_range : ((rangeAnalysis W min max).mask : Int) + 1 < 2 * (max - min + 1) := by
  obtain ⟨hpos, hhalf, -⟩ := rangeBits_spec hlt
  have hpow : (2 : Int) ^ rangeBits min max = 2 * 2 ^ (rangeBits min max - 1) := mod_cast two_pow_width hpos
  rw [mask_rangeAnalysis hW hlo hlt hhi, Nat.cast_sub Nat.one_le_two_pow]
  push_cast
  omega

/-- A range of a power of two values accepts every value of a draw (41_getint.md R141). -/
theorem candidate_mem_of_full {v : Nat} (hfull : 2 ^ rangeBits min max = (max - min).toNat + 1)
    (hv : v ≤ (rangeAnalysis W min max).mask) :
    min ≤ candidateOf W (rangeAnalysis W min max) min v ∧ candidateOf W (rangeAnalysis W min max) min v ≤ max := by
  rw [mask_rangeAnalysis hW hlo hlt hhi, hfull] at hv
  rcases le_or_gt (max - min) (2 ^ (W - 1) - 1) with hnarrow | hwide
  · simp only [rangeAnalysis_narrow hnarrow, candidateOf, Bool.false_eq_true, if_false]
    omega
  · rw [rangeBits_wide hW hlo hlt hhi hwide] at hfull
    have hends : max - min = 2 * 2 ^ (W - 1) - 1 := by
      have hpow : (2 : Int) ^ W = 2 * 2 ^ (W - 1) := mod_cast two_pow_width hW
      zify at hfull
      omega
    obtain ⟨hge, hle⟩ := sintW_bounds (v := v) hW (by omega)
    simp only [rangeAnalysis_wide hwide, candidateOf, if_true]
    omega

end

/-- Settles O32: the range's own number of bits is the one that the narrow case takes. -/
theorem rangeAnalysisIsMinimal : Obligations.RangeAnalysisIsMinimal := by
  intro W min max hW hbytes hlo hlt hhi
  refine ⟨fun hnarrow => ?_, fun hwide => ⟨by omega, rangeAnalysis_wide hwide, fun v => ?_⟩⟩
  · obtain ⟨hpos, hleast, hcover⟩ := rangeBits_spec hlt
    have hle : rangeBits min max ≤ W - 1 := rangeBits_le hlt (by omega)
    refine ⟨rangeBits min max, hpos, hle, hleast, hcover, ?_, ?_, rangeAnalysis_narrow hnarrow, fun v => ?_⟩
    · rw [ceilDiv]
      omega
    · rw [ceilDiv]
      omega
    · simp [rangeAnalysis_narrow hnarrow, candidateOf]
  · simp [rangeAnalysis_wide hwide, candidateOf]

/-- Settles O33: the candidates of a draw's values cover the range once, and the mask is below twice the range. -/
theorem samplingIsUnbiased : Obligations.SamplingIsUnbiased := by
  intro W min max hW _ hlo hlt hhi p
  refine ⟨fun r => existsUnique_candidate hW hlo hlt hhi, fun v => accepts_iff, fun b => ⟨?_, drawValue_le_mask p b⟩,
    mask_lt_twice_range hW hlo hlt hhi⟩
  rw [drawValue, intLE_eq_sum]

end Sys2Proof.Machine
end

section
/-! `GETINT`, one equation for each of its ends (41_getint.md R130, R131, R137, R138), and the ranges whose first draw is always
accepted (R141). -/

namespace Sys2Proof.Machine

/-! ## The operands (41_getint.md R130) -/

theorem operandMin_eq_toInt (s : State) : operandMin s = s.minReg.toInt := sintW_native s.minReg

theorem operandMin_bounds (s : State) : -2 ^ 63 ≤ operandMin s ∧ operandMin s ≤ 2 ^ 63 - 1 :=
  sintW_bounds (W := 64) (by decide) (Nat.le_pred_of_lt s.minReg.isLt)

theorem operandMax_bounds (s : State) : -2 ^ 63 ≤ operandMax s ∧ operandMax s ≤ 2 ^ 63 - 1 :=
  sintW_bounds (W := 64) (by decide) (Nat.le_pred_of_lt s.maxReg.isLt)

/-! ## The ends of the sampling (41_getint.md R131, R137) -/

section
variable {E : Cipher} {s : State}

theorem sampleInt_of_empty (h : operandMin s > operandMax s) : sampleInt E s = (.invalidRange, s) := by
  simp [sampleInt, h]

theorem sampleInt_of_single (h : operandMin s = operandMax s) : sampleInt E s = (.ok, writeResult (operandMin s) s) := by
  simp [sampleInt, h]

theorem sampleInt_of_accepted (h : operandMin s < operandMax s) {k : Nat} (hk : firstAccepted E s = some k) :
    sampleInt E s = (.ok, writeResult (drawCandidate E s k) (afterDraws s (k + 1))) := by
  simp [sampleInt, h.not_gt, h.ne, drawLoop_eq E h, drawsMade_of_lt E h, hk]

theorem sampleInt_of_exhausted (h : operandMin s < operandMax s) (hnone : firstAccepted E s = none) :
    sampleInt E s = (.generatorExhausted, afterDraws s 128) := by
  simp [sampleInt, h.not_gt, h.ne, drawLoop_eq E h, drawsMade_of_lt E h, hnone]

/-- A value that the sampling writes to `RESULT` lies in the range (41_getint.md R130). -/
theorem result_of_sampleInt {s' : State} (h : sampleInt E s = (.ok, s')) :
    operandMin s ≤ sintW 64 s'.result.toNat ∧ sintW 64 s'.result.toNat ≤ operandMax s := by
  obtain ⟨hmin, -⟩ := operandMin_bounds s
  obtain ⟨-, hmax⟩ := operandMax_bounds s
  have hresult {r : Int} {u : State} (hlo : operandMin s ≤ r) (hhi : r ≤ operandMax s) :
      sintW 64 (writeResult r u).result.toNat = r := sintW_ofInt (hmin.trans hlo) (hhi.trans hmax)
  obtain ⟨-, hs⟩ | ⟨heq, hs⟩ | ⟨-, c, e, ⟨r, hlo, hhi, hs⟩ | hs⟩ := sampleInt_cases E s <;> cases hs.symm.trans h
  · rw [hresult le_rfl heq.le]
    exact ⟨le_rfl, heq.le⟩
  · rw [hresult hlo hhi]
    exact ⟨hlo, hhi⟩

/-! ## The commands after their sampling -/

/-- A seeded `GETINT` ends with the state and the code of its sampling (41_getint.md R137). -/
theorem getInt_of_sample (hs : s.seeded = true) {c : CompletionCode} {s' : State} (h : sampleInt E s = (c, s')) :
    getInt E s = .next { s' with err := c } := by
  rw [getInt, whenSeeded_of_seeded hs, h]
  cases c <;> rfl

/-- Past its tests and a sampling that succeeds, `E.GETINT` reseeds at the advanced counter (43_erasure.md R174). -/
theorem eGetInt_of_sample_ok (hs : s.seeded = true) (hk : s.keylen = .bits256) {s' : State}
    (h : sampleInt E s = (.ok, s')) :
    eGetInt E s = .next { s' with
      seed := toSeed (ks E s'.key s'.ctr 32)
      keylen := .bits256
      ctr := 0
      bsel := backend s'.cap .bits256
      err := .ok
      port := s'.port ++ requestEvents s' s'.ctr 32 } := by
  rw [eGetInt, whenErasable_of_long_key hs hk, h]
  simp only [keystreamRequest_eq]
  rfl

/-- Past its tests and a sampling that fails, `E.GETINT` ends where `GETINT` does (43_erasure.md R174). -/
theorem eGetInt_of_sample_error (hs : s.seeded = true) (hk : s.keylen = .bits256) {c : CompletionCode} (hc : c ≠ .ok)
    {s' : State} (h : sampleInt E s = (c, s')) : eGetInt E s = .next { s' with err := c } := by
  rw [eGetInt, whenErasable_of_long_key hs hk, h]
  cases c with
  | ok => exact absurd rfl hc
  | _ => rfl

theorem getInt_of_empty (hs : s.seeded = true) (h : operandMin s > operandMax s) :
    getInt E s = .next { s with err := .invalidRange } := getInt_of_sample hs (sampleInt_of_empty h)

theorem getInt_of_single (hs : s.seeded = true) (h : operandMin s = operandMax s) :
    getInt E s = .next { s with result := BitVec.ofInt 64 (operandMin s), err := .ok } :=
  getInt_of_sample hs (sampleInt_of_single h)

theorem getInt_of_accepted (hs : s.seeded = true) (h : operandMin s < operandMax s) {k : Nat}
    (hk : firstAccepted E s = some k) :
    getInt E s = .next { s with
      ctr := s.ctr + BitVec.ofNat 128 (k + 1)
      result := BitVec.ofInt 64 (drawCandidate E s k)
      err := .ok
      port := s.port ++ drawEvents s (k + 1) } := getInt_of_sample hs (sampleInt_of_accepted h hk)

theorem getInt_of_exhausted (hs : s.seeded = true) (h : operandMin s < operandMax s) (hnone : firstAccepted E s = none) :
    getInt E s = .next { s with
      ctr := s.ctr + 128
      err := .generatorExhausted
      port := s.port ++ drawEvents s 128 } := getInt_of_sample hs (sampleInt_of_exhausted h hnone)

/-! ## The first accepted draw (41_getint.md R136, R141) -/

theorem firstAccepted_lt {k : Nat} (h : firstAccepted E s = some k) : k < 128 :=
  List.mem_range.mp (List.mem_of_find?_eq_some h)

theorem everyDrawAccepted_iff : everyDrawAccepted s = true ↔ operandMin s < operandMax s ∧
    2 ^ rangeBits (operandMin s) (operandMax s) = (operandMax s - operandMin s).toNat + 1 := by
  simp [everyDrawAccepted, rangeBits]

/-- In a range of a power of two values no draw is rejected, whatever the cipher (41_getint.md R141). -/
theorem drawAccepted_of_everyDrawAccepted (h : everyDrawAccepted s = true) (k : Nat) : drawAccepted E s k = true := by
  obtain ⟨hlt, hfull⟩ := everyDrawAccepted_iff.mp h
  exact accepts_iff.mpr (candidate_mem_of_full (W := 64) (by decide) (operandMin_bounds s).1 hlt (operandMax_bounds s).2 hfull
    (drawValue_le_mask _ _))

theorem firstAccepted_of_everyDrawAccepted (h : everyDrawAccepted s = true) : firstAccepted E s = some 0 := by
  rw [firstAccepted, List.range_succ_eq_map, List.find?_cons, drawAccepted_of_everyDrawAccepted h 0]

end

/-- A `GETINT` or `E.GETINT` that completes with `OK` leaves the `RESULT` of a sampling that succeeded. -/
theorem sampleInt_of_exec_ok {i : Instr} {s t : State} (hi : i = .getInt ∨ i = .eGetInt) (h : exec i s = .next t)
    (hok : t.err = .ok) : ∃ s', sampleInt Config.cipherE s = (.ok, s') ∧ t.result = s'.result := by
  have hreseed : i.isReseed = false := by obtain rfl | rfl := hi <;> rfl
  cases hs : s.seeded with
  | false =>
    cases (exec_of_unseeded hreseed hs).symm.trans h
    cases hok
  | true =>
    obtain ⟨c, s', hsample⟩ : ∃ c s', sampleInt Config.cipherE s = (c, s') := ⟨_, _, rfl⟩
    obtain rfl | rfl := hi
    · cases (getInt_of_sample hs hsample).symm.trans h
      cases hok
      exact ⟨s', hsample, rfl⟩
    · cases hk : s.keylen with
      | bits128 =>
        cases (exec_of_short_key rfl hs hk).symm.trans h
        cases hok
      | bits256 =>
        by_cases hc : c = .ok
        · subst hc
          cases (eGetInt_of_sample_ok hs hk hsample).symm.trans h
          exact ⟨s', hsample, rfl⟩
        · cases (eGetInt_of_sample_error hs hk hc hsample).symm.trans h
          exact absurd hok hc

/-! ## The obligations -/

/-- Settles O31: an operand read as signed and written to `RESULT` is its own pattern again. -/
theorem getIntExitsEarly : Obligations.GetIntExitsEarly := by
  refine ⟨fun s hs => getInt_of_empty hs, fun s hs heq => (getInt_of_single hs heq).trans ?_⟩
  rw [operandMin_eq_toInt, BitVec.ofInt_toInt]

/-- Settles O34: the two tests, the two early ends, and the two ends of the draw loop. -/
theorem getIntTakesTheFirstAcceptedDraw : Obligations.GetIntTakesTheFirstAcceptedDraw := by
  refine ⟨by decide, fun s => exec_of_unseeded rfl, fun s => getInt_of_empty, fun s => getInt_of_single, fun s hs hlt => ?_⟩
  cases hfirst : firstAccepted Config.cipherE s with
  | some k => exact getInt_of_accepted hs hlt hfirst
  | none => exact getInt_of_exhausted hs hlt hfirst

/-- Settles O35: on `OK` the sampling has succeeded, and `RESULT` is what it wrote. -/
theorem getIntResultIsInRange : Obligations.GetIntResultIsInRange := by
  intro s
  obtain ⟨hmin, hmin'⟩ := operandMin_bounds s
  refine ⟨⟨hmin, hmin', operandMax_bounds s⟩, fun i t hi h hok => ?_⟩
  obtain ⟨s', hsample, hresult⟩ := sampleInt_of_exec_ok hi h hok
  rw [hresult]
  exact result_of_sampleInt hsample

/-- Settles O36, end by end: no draw in the early ends, `k + 1` up to the accepted one, all 128 on exhaustion. -/
theorem getIntAdvancesOncePerDraw : Obligations.GetIntAdvancesOncePerDraw := by
  intro s t hs h
  rcases lt_trichotomy (operandMin s) (operandMax s) with hlt | heq | hgt
  · cases hfirst : firstAccepted Config.cipherE s with
    | some k =>
      cases (getInt_of_accepted hs hlt hfirst).symm.trans h
      exact ⟨k + 1, firstAccepted_lt hfirst, by simp, rfl, by simp [hlt.ne]⟩
    | none =>
      cases (getInt_of_exhausted hs hlt hfirst).symm.trans h
      exact ⟨128, le_rfl, by simp, rfl, by simp⟩
  · cases (getInt_of_single hs heq).symm.trans h
    exact ⟨0, by simp, (Nat.mod_eq_of_lt s.ctr.isLt).symm, by simp [drawEvents], by simp [heq]⟩
  · cases (getInt_of_empty hs hgt).symm.trans h
    exact ⟨0, by simp, (Nat.mod_eq_of_lt s.ctr.isLt).symm, by simp [drawEvents], by simp⟩

/-- Settles O37: draw 0 is the first accepted one, and `E.GETINT` reseeds one block further. -/
theorem powerOfTwoRangesNeedOneDraw : Obligations.PowerOfTwoRangesNeedOneDraw := by
  refine ⟨fun s hs hevery => ?_, fun s hs hk hevery => ?_⟩
  · exact getInt_of_accepted hs (everyDrawAccepted_iff.mp hevery).1 (firstAccepted_of_everyDrawAccepted hevery)
  · have hsample := sampleInt_of_accepted (E := Config.cipherE) (everyDrawAccepted_iff.mp hevery).1
      (firstAccepted_of_everyDrawAccepted hevery)
    refine (eGetInt_of_sample_ok hs hk hsample).trans ?_
    simp [afterDraws, hk]

end Sys2Proof.Machine
end

section
/-! The seeks and `RESEED`: one equation for each of their ends (42_seek_reseed.md R150, R151, R153, R154, R156), and the backend
that follows the key through every command and step (R155). -/

namespace Sys2Proof.Machine

/-! ## The seeks (42_seek_reseed.md R150, R151) -/

/-- Settles O38: past the test, the seek is one write of `CTR`. -/
theorem seekSetSetsTheCounter : Obligations.SeekSetSetsTheCounter :=
  ⟨by decide, fun _ hs => whenSeeded_of_seeded hs, fun _ => exec_of_unseeded rfl⟩

/-- Settles O39: the 128-bit sum is the sum modulo `2^128`. -/
theorem seekIncAddsToTheCounter : Obligations.SeekIncAddsToTheCounter :=
  ⟨by decide, fun s hs => ⟨s.ctr + s.pos, BitVec.toNat_add s.ctr s.pos, whenSeeded_of_seeded hs⟩,
    fun _ => exec_of_unseeded rfl⟩

/-! ## The two ends of RESEED (42_seek_reseed.md R153, R154, R156) -/

theorem exec_reseed_of_legal {slen : Nat} {k : KeyLen} (hk : keyLenOfSeed slen = some k) (s : State) :
    exec (.reseed slen) s = .next { s with
      seed := toSeed (operandSeed slen s), keylen := k, ctr := s.pos, bsel := backend s.cap k, seeded := true,
      seedin := zeroSeed, err := .ok } := by
  simp only [exec, execReseed, hk]
  rfl

theorem exec_reseed_of_illegal {slen : Nat} (hk : keyLenOfSeed slen = none) (s : State) :
    exec (.reseed slen) s = .next { s with seedin := zeroSeed, err := .invalidSeedLength } := by
  simp only [exec, execReseed, hk]
  rfl

/-- The installed seed is the staged one as far as `SLEN` reaches, and zero beyond. -/
theorem getElem_toSeed_operandSeed (slen : Nat) (s : State) (j : Fin 32) :
    (toSeed (operandSeed slen s))[j.val] = if j.val < slen then s.seedin[j.val] else 0 := by
  rw [getElem_toSeed]
  split
  case isTrue hj => simp [operandSeed, hj]
  case isFalse hj => exact List.getD_eq_default _ _ (by rw [length_operandSeed]; omega)

/-- All 32 staged bytes are the whole staging register. -/
theorem toSeed_operandSeed_full (s : State) : toSeed (operandSeed 32 s) = s.seedin := by
  apply Vector.ext
  intro j hj
  exact (getElem_toSeed_operandSeed 32 s ⟨j, hj⟩).trans (if_pos hj)

/-- The word of a `RESEED` for each of the 64 values of its length field (30_encoding.md R81, R86). -/
theorem encode_reseed : ∀ slen < 64, encode (.reseed slen) = BitVec.ofNat 32 (1 + slen * 0x100) := by decide

/-- Settles O40: a legal length installs the staged bytes it names, and any other only clears the staging register. -/
theorem reseedInstallsTheStagedSeed : Obligations.ReseedInstallsTheStagedSeed := by
  refine ⟨fun slen h => encode_reseed slen (by omega), fun s => ?_, fun s => ?_, fun s slen h16 h32 => ?_⟩
  · exact ⟨toSeed (operandSeed 16 s), getElem_toSeed_operandSeed 16 s, exec_reseed_of_legal rfl s⟩
  · have hexec := exec_reseed_of_legal (slen := 32) rfl s
    rwa [toSeed_operandSeed_full] at hexec
  · exact exec_reseed_of_illegal (keyLenOfSeed_eq_none.mpr ⟨h16, h32⟩) s

/-- Settles O42: all that a legal `RESEED` writes is made of the staged seed, its length, `POS` and `CAP`. -/
theorem reseedForgetsTheOldStream : Obligations.ReseedForgetsTheOldStream := by
  intro s s' slen hlen hseed hpos hcap
  obtain ⟨k, hk⟩ : ∃ k, keyLenOfSeed slen = some k := by obtain rfl | rfl := hlen <;> exact ⟨_, rfl⟩
  have hstaged : operandSeed slen s' = operandSeed slen s := hseed
  refine ⟨_, exec_reseed_of_legal hk s, ?_⟩
  rw [exec_reseed_of_legal hk s', hstaged, hpos, hcap]

/-! ## The backend (42_seek_reseed.md R155) -/

theorem backend_bits128_eq_native {caps : Caps} : backend caps .bits128 = .native ↔ caps.ctr128 = true := by
  simp [backend]

theorem backend_bits256_eq_native {caps : Caps} : backend caps .bits256 = .native ↔ caps.ctr256 = true := by
  simp [backend]

/-- A command that writes `SEED` evaluates the backend for the key length it leaves. -/
theorem MayHave.bsel_of_ok {s : State} {i : Instr} {f : Effect} (hf : MayHave s i f)
    (hi : i.isReseed = true ∨ i = .eGetBytes ∨ i = .eGetInt) (hok : f.code = .ok) (u : State) :
    (f.apply u).bsel = backend u.cap (f.apply u).keylen := by
  cases hf with
  | reseed | eGetBytes | eGetInt => rfl
  | notSeeded | shortKey | invalidRange | exhaust | badLength => cases hok
  | seek _ hseek =>
    simp only [List.mem_cons, List.not_mem_nil, or_false] at hseek
    obtain rfl | rfl | rfl | rfl := hseek <;> simp [Instr.isReseed] at hi
  | getBytes | getInt => simp [Instr.isReseed] at hi

/-- Every effect a command may have keeps the backend in agreement with the key length while a seed is held. -/
theorem MayHave.backend_selected {s : State} {i : Instr} {f : Effect} (hf : MayHave s i f) {u : State}
    (hu : u.seeded = true → u.bsel = backend u.cap u.keylen) (hseeded : (f.apply u).seeded = true) :
    (f.apply u).bsel = backend u.cap (f.apply u).keylen := by
  cases hf with
  | reseed | eGetBytes | eGetInt => rfl
  | _ => exact hu hseeded

/-- Settles O41: the effects that write `SEED` evaluate the backend anew and no other touches it, so that a step keeps the
agreement; a reset holds no seed. -/
theorem backendFollowsKeyLengthAndCapability : Obligations.BackendFollowsKeyLengthAndCapability := by
  refine ⟨fun _ => ⟨backend_bits128_eq_native, backend_bits256_eq_native⟩, fun i s t h => ?_, fun s t h hs hseeded => ?_⟩
  · obtain ⟨f, hf, rfl⟩ := exec_eq_next h
    split
    case isTrue hwrites => exact hf.bsel_of_ok hwrites.1 hwrites.2 s
    case isFalse hkeeps =>
      have hkey := mt (hf.of_key_ne (u := s)) hkeeps
      simp only [not_or, not_not] at hkey
      obtain ⟨hseed, hkeylen, hbsel⟩ := hkey
      exact ⟨hbsel, hseed, hkeylen⟩
  · cases step_eq_next h with
    | reset => simp at hseeded
    | idle | illegalWord => exact hs hseeded
    | read | write => simpa using hs (by simpa using hseeded)
    | command _ _ _ hf =>
      rw [Effect.apply_cap]
      exact hf.backend_selected hs hseeded

end Sys2Proof.Machine
end

section
/-! The erasure commands: one equation for each of their ends (43_erasure.md R171, R172, R174, R176, R177), the corner cases of
`E.GETBYTES` (R178), and where the reseed material goes and on what it depends (R173, R180). -/

namespace Sys2Proof.Machine

/-! ## The two tests (43_erasure.md R171) -/

theorem exec_of_not_long_key {i : Instr} {s : State} (hi : i.isErasure = true) (hs : s.seeded = true)
    (hk : s.keylen ≠ .bits256) : exec i s = .next { s with err := .illegalCommand } := by
  refine exec_of_short_key hi hs ?_
  cases hkeylen : s.keylen with
  | bits128 => rfl
  | bits256 => exact absurd hkeylen hk

/-- An erasure command completes with `OK` only past both tests. -/
theorem erasable_of_exec_ok {i : Instr} {s t : State} (hi : i.isErasure = true) (h : exec i s = .next t)
    (hok : t.err = .ok) : s.seeded = true ∧ s.keylen = .bits256 := by
  cases hs : s.seeded with
  | false =>
    cases (exec_of_unseeded (isReseed_of_isErasure hi) hs).symm.trans h
    cases hok
  | true =>
    cases hk : s.keylen with
    | bits128 =>
      cases (exec_of_short_key hi hs hk).symm.trans h
      cases hok
    | bits256 => exact ⟨rfl, rfl⟩

/-- Settles O43: the two tests come before anything else. -/
theorem erasureNeedsASeedOf32Bytes : Obligations.ErasureNeedsASeedOf32Bytes :=
  fun _ _ hi => ⟨exec_of_unseeded (isReseed_of_isErasure hi), exec_of_not_long_key hi⟩

/-! ## The erasing seeks (43_erasure.md R176, R177) -/

/-- Settles O47: past the tests, the seek is one write of `CTR`. -/
theorem erasingSeekSetOnlySetsTheCounter : Obligations.ErasingSeekSetOnlySetsTheCounter :=
  ⟨by decide, fun _ => whenErasable_of_long_key, fun _ => exec_of_unseeded rfl, fun _ => exec_of_not_long_key rfl⟩

/-- Settles O48: the 128-bit sum is the sum modulo `2^128`. -/
theorem erasingSeekIncOnlyAddsToTheCounter : Obligations.ErasingSeekIncOnlyAddsToTheCounter :=
  ⟨by decide, fun s hs hk => ⟨s.ctr + s.pos, BitVec.toNat_add s.ctr s.pos, whenErasable_of_long_key hs hk⟩,
    fun _ => exec_of_unseeded rfl, fun _ => exec_of_not_long_key rfl⟩

/-! ## E.GETBYTES (43_erasure.md R172, R178) -/

/-- Past its tests, `E.GETBYTES` splits one keystream request between the output and the seed. -/
theorem eGetBytes_of_long_key (E : Cipher) {s : State} (hs : s.seeded = true) (hk : s.keylen = .bits256) :
    eGetBytes E s = .next { s with
      out := (ks E s.key s.ctr (s.len.toNat + 32)).take s.len.toNat
      seed := toSeed ((ks E s.key s.ctr (s.len.toNat + 32)).drop s.len.toNat)
      keylen := .bits256
      ctr := 0
      bsel := backend s.cap .bits256
      err := .ok
      port := s.port ++ requestEvents s s.ctr (s.len.toNat + 32) } := by
  rw [eGetBytes, whenErasable_of_long_key hs hk]
  simp only [keystreamRequest_eq]
  rfl

/-- What is left of the request after the output is exactly a seed. -/
theorem toSeed_reseedBytes (E : Cipher) (K : Key) (c : Counter) (n : Nat) :
    (toSeed ((ks E K c (n + 32)).drop n)).toList = (ks E K c (n + 32)).drop n :=
  toSeed_toList (by simp)

/-- The blocks of a request that asks for a seed beside the output. -/
theorem ceilDiv_add_seed (n : Nat) : ceilDiv (n + 32) 16 = if n % 16 = 0 then n / 16 + 2 else n / 16 + 3 := by
  rw [ceilDiv_block]
  split <;> omega

theorem requestEvents_of_native {s : State} (hb : s.bsel = .native) (c : Counter) {n : Nat} (hn : n ≠ 0) :
    requestEvents s c n = [⟨s.keylen, .ctr (nonce c) n⟩] := by
  rw [requestEvents_of_pos s c hn, hb, portOp]

theorem requestEvents_of_emulated {s : State} (hb : s.bsel = .emulated) (c : Counter) {n : Nat} (hn : n ≠ 0) :
    requestEvents s c n = [⟨s.keylen, .ecb (counterBlocks c (ceilDiv n 16))⟩] := by
  rw [requestEvents_of_pos s c hn, hb, portOp, nonceChain_nonce]

/-- Settles O44: past the tests, the end is `eGetBytes_of_long_key`, and the material fills `SEED`. -/
theorem erasingGetBytesReplacesTheSeed : Obligations.ErasingGetBytesReplacesTheSeed :=
  ⟨by decide, fun s hs hk => ⟨_, toSeed_reseedBytes Config.cipherE s.key s.ctr s.len.toNat,
    eGetBytes_of_long_key Config.cipherE hs hk⟩, fun _ => exec_of_unseeded rfl, fun _ => exec_of_not_long_key rfl⟩

/-- Settles O45: the request is never empty, because it asks for the seed whatever `LEN` is; its blocks are counted on the exact
sum. -/
theorem erasingGetBytesCornerCases : Obligations.ErasingGetBytesCornerCases := by
  refine ⟨fun s hs hk hlen => ⟨_, eGetBytes_of_long_key Config.cipherE hs hk, ?_, ?_, ?_⟩,
    fun s hs hk => ⟨_, eGetBytes_of_long_key Config.cipherE hs hk, rfl, ?_, fun hb => ?_, fun hb => ?_⟩⟩
  · simp [hlen]
  · refine (toSeed_reseedBytes Config.cipherE s.key s.ctr s.len.toNat).trans ?_
    simp [hlen]
  · simp [requestEvents_of_pos]
  · simp
  · simp only [requestEvents_of_native hb s.ctr (Nat.succ_ne_zero _), hk]
  · simp only [requestEvents_of_emulated hb s.ctr (Nat.succ_ne_zero _), ceilDiv_add_seed, hk]

/-! ## E.GETINT (43_erasure.md R174, R175) -/

/-- Past its tests, `E.GETINT` does as `GETINT`, and goes on to reseed where that ends with `OK` (43_erasure.md R174). -/
theorem eGetInt_of_getInt (E : Cipher) {s : State} (hs : s.seeded = true) (hk : s.keylen = .bits256) :
    ∃ t : State, getInt E s = .next t ∧
      (t.err = .ok → eGetInt E s = .next { t with
        seed := toSeed (ks E s.key t.ctr 32)
        keylen := .bits256
        ctr := 0
        bsel := backend s.cap .bits256
        port := t.port ++ requestEvents s t.ctr 32 }) ∧
      (t.err ≠ .ok → eGetInt E s = .next t) := by
  obtain ⟨r, hsample⟩ | ⟨c, hc, hsample⟩ := sampleInt_afterDraws E s
  · exact ⟨_, getInt_of_sample hs hsample, fun _ => (eGetInt_of_sample_ok hs hk hsample).trans rfl,
      fun herr => absurd rfl herr⟩
  · exact ⟨_, getInt_of_sample hs hsample, fun hok => absurd hok hc, fun _ => eGetInt_of_sample_error hs hk hc hsample⟩

/-- With `min = max` nothing is drawn, and the reseed is from the counter found. -/
theorem eGetInt_of_single (E : Cipher) {s : State} (hs : s.seeded = true) (hk : s.keylen = .bits256)
    (heq : operandMin s = operandMax s) :
    eGetInt E s = .next { s with
      result := s.minReg
      seed := toSeed (ks E s.key s.ctr 32)
      ctr := 0
      bsel := backend s.cap .bits256
      err := .ok
      port := s.port ++ requestEvents s s.ctr 32 } := by
  refine (eGetInt_of_sample_ok hs hk (sampleInt_of_single heq)).trans ?_
  simp [operandMin_eq_toInt, hk]

/-- Settles O46: `eGetInt_of_getInt`, with 32 keystream bytes as the seed. -/
theorem erasingGetIntSamplesThenReseeds : Obligations.ErasingGetIntSamplesThenReseeds := by
  refine ⟨by decide, fun s hs hk => ?_, fun s => eGetInt_of_single Config.cipherE, fun _ => exec_of_unseeded rfl,
    fun _ => exec_of_not_long_key rfl⟩
  obtain ⟨t, hget, hok, herr⟩ := eGetInt_of_getInt Config.cipherE hs hk
  exact ⟨t, hget, fun h => ⟨_, toSeed_toList (length_ks _ _ _ _), hok h⟩, herr⟩

/-! ## On what the new seed depends (43_erasure.md R180) -/

theorem key_of_long_key {s : State} (hk : s.keylen = .bits256) : s.key = .k256 s.seed := by
  simp only [State.key, hk]

/-- The draws are counted on the key, the counter and the operands only. -/
theorem drawsMade_congr (E : Cipher) {s s' : State} (hkey : s'.key = s.key) (hctr : s'.ctr = s.ctr)
    (hmin : s'.minReg = s.minReg) (hmax : s'.maxReg = s.maxReg) : drawsMade E s' = drawsMade E s := by
  have hlo : operandMin s' = operandMin s := by rw [operandMin, hmin, operandMin]
  have hhi : operandMax s' = operandMax s := by rw [operandMax, hmax, operandMax]
  have haccepted : drawAccepted E s' = drawAccepted E s := by
    funext k
    simp only [drawAccepted, drawCandidate, operandSampling, hkey, hctr, hlo, hhi]
  rw [drawsMade, drawsMade, firstAccepted, firstAccepted, hlo, hhi, haccepted]

/-- An `E.GETINT` that completes with `OK` ends with the seed from the counter past its draws. -/
theorem eGetInt_eq_ok {E : Cipher} {s t : State} (hs : s.seeded = true) (hk : s.keylen = .bits256)
    (h : eGetInt E s = .next t) (hok : t.err = .ok) :
    t.keylen = .bits256 ∧ t.ctr = 0 ∧
      t.seed = toSeed (ks E s.key (s.ctr + BitVec.ofNat 128 (drawsMade E s)) 32) := by
  obtain ⟨r, hsample⟩ | ⟨c, hc, hsample⟩ := sampleInt_afterDraws E s
  · cases (eGetInt_of_sample_ok hs hk hsample).symm.trans h
    exact ⟨rfl, rfl, rfl⟩
  · cases (eGetInt_of_sample_error hs hk hc hsample).symm.trans h
    exact absurd hok hc

/-- Settles O49: under a 256-bit key the key is `SEED`, and with `CTR` and the operands it fixes the keystream bytes that become
the new seed. -/
theorem erasureResetsCounterAndDependsOnNothingElse : Obligations.ErasureResetsCounterAndDependsOnNothingElse := by
  intro i s s' t t' hi h h' hok hok'
  have herase : i.isErasure = true := by obtain rfl | rfl := hi <;> rfl
  obtain ⟨hs, hk⟩ := erasable_of_exec_ok herase h hok
  obtain ⟨hs', hk'⟩ := erasable_of_exec_ok herase h' hok'
  have hkey (hseed : s'.seed = s.seed) : s'.key = s.key := by rw [key_of_long_key hk, key_of_long_key hk', hseed]
  obtain rfl | rfl := hi
  · cases (eGetBytes_of_long_key Config.cipherE hs hk).symm.trans h
    cases (eGetBytes_of_long_key Config.cipherE hs' hk').symm.trans h'
    exact ⟨rfl, rfl, fun hseed hctr hlen _ _ => by simp only [hkey hseed, hctr, hlen]⟩
  · obtain ⟨hkeylen, hzero, hnew⟩ := eGetInt_eq_ok hs hk h hok
    obtain ⟨-, -, hnew'⟩ := eGetInt_eq_ok hs' hk' h' hok'
    refine ⟨hkeylen, hzero, fun hseed hctr _ hmin hmax => ?_⟩
    rw [hnew, hnew', drawsMade_congr Config.cipherE (hkey hseed) hctr hmin hmax, hkey hseed, hctr]

/-! ## Where the reseed material goes (43_erasure.md R173) -/

/-- Both answers are next states, and they differ at most in `SEED`. -/
def DiffersInSeed (a a' : Answer) : Prop := ∃ (t : State) (v : SeedBytes), a = .next t ∧ a' = .next { t with seed := v }

theorem differsInSeed_refl (t : State) : DiffersInSeed (.next t) (.next t) := ⟨t, t.seed, rfl, rfl⟩

theorem differsInSeed_whenErasable (s : State) {body body' : Answer} (hbody : DiffersInSeed body body') :
    DiffersInSeed (whenErasable s body) (whenErasable s body') := by
  cases hs : s.seeded with
  | false =>
    rw [whenErasable, whenErasable, whenSeeded_of_unseeded hs, whenSeeded_of_unseeded hs]
    exact differsInSeed_refl _
  | true =>
    cases hk : s.keylen with
    | bits128 => simpa [whenErasable, whenSeeded_of_seeded hs, hk, raise] using differsInSeed_refl _
    | bits256 => rwa [whenErasable_of_long_key hs hk, whenErasable_of_long_key hs hk]

theorem eGetBytes_differsInSeed {E E' : Cipher} {s : State}
    (h : (ks E s.key s.ctr (s.len.toNat + 32)).take s.len.toNat =
      (ks E' s.key s.ctr (s.len.toNat + 32)).take s.len.toNat) :
    DiffersInSeed (eGetBytes E s) (eGetBytes E' s) := by
  refine differsInSeed_whenErasable s ?_
  simp only [keystreamRequest_eq, operandLen, h]
  exact ⟨_, _, rfl, rfl⟩

theorem eGetInt_differsInSeed {E E' : Cipher} {s : State} (h : sampleInt E s = sampleInt E' s) :
    DiffersInSeed (eGetInt E s) (eGetInt E' s) := by
  refine differsInSeed_whenErasable s ?_
  rw [h]
  obtain ⟨c, s'⟩ := sampleInt E' s
  cases c with
  | ok =>
    simp only [keystreamRequest_eq]
    exact ⟨_, _, rfl, rfl⟩
  | _ => exact differsInSeed_refl _

/-- Settles O50: the cipher reaches the rest of the state through the output or the sampling only, and these are the same. -/
theorem erasureMaterialReachesOnlyTheSeed : Obligations.ErasureMaterialReachesOnlyTheSeed :=
  ⟨fun _ _ _ => eGetBytes_differsInSeed, fun _ _ _ => eGetInt_differsInSeed⟩

end Sys2Proof.Machine
end

section
/-! The completion codes: which test a command that completes with a code has met, in the order of 60_exceptions.md R197, and
the state each error leaves (R194, R195, R199). -/

namespace Sys2Proof.Machine

/-! ## The code of an effect -/

section
variable {s : State} {i : Instr} {f : Effect}

/-- Only the first test ends with `NotSeeded` (60_exceptions.md R195). -/
theorem MayHave.of_notSeeded (hf : MayHave s i f) (hcode : f.code = .notSeeded) : s.seeded = false ∧ i.isReseed = false := by
  cases hf with
  | notSeeded hi hs => exact ⟨hs, hi⟩
  | _ => cases hcode

/-- Only a draw loop that gives up ends with `GeneratorExhausted` (60_exceptions.md R193). -/
theorem MayHave.of_generatorExhausted (hf : MayHave s i f) (hcode : f.code = .generatorExhausted) :
    i = .getInt ∨ i = .eGetInt := by
  cases hf with
  | exhaust _ _ hi => exact hi
  | _ => cases hcode

/-- No effect ends with the reserved `InvalidSeekMode` (60_exceptions.md R194). -/
theorem MayHave.code_ne_invalidSeekMode (hf : MayHave s i f) : f.code ≠ .invalidSeekMode := by
  cases hf <;> exact nofun

/-- The commands that have no error of their own complete with `OK` past the tests before them (60_exceptions.md R197). -/
theorem MayHave.code_of_no_own_error (hf : MayHave s i f)
    (hi : i ∈ [.seekSet, .seekInc, .getBytes, .eSeekSet, .eSeekInc, .eGetBytes]) (hs : s.seeded = true)
    (hk : i.isErasure = true → s.keylen = .bits256) : f.code = .ok := by
  cases hf with
  | notSeeded _ hunseeded => simp [hunseeded] at hs
  | shortKey herase _ hshort => simp [hk herase] at hshort
  | invalidRange hint | exhaust _ _ hint => obtain rfl | rfl := hint <;> simp at hi
  | badLength => simp at hi
  | _ => rfl

end

/-! ## The ends of a command -/

section
variable {i : Instr} {s t : State}

theorem err_of_unseeded (h : exec i s = .next t) (hi : i.isReseed = false) (hs : s.seeded = false) :
    t.err = .notSeeded := by
  cases (exec_of_unseeded hi hs).symm.trans h
  rfl

theorem err_of_not_long_key (h : exec i s = .next t) (hi : i.isErasure = true) (hs : s.seeded = true)
    (hk : s.keylen ≠ .bits256) : t.err = .illegalCommand := by
  cases (exec_of_not_long_key hi hs hk).symm.trans h
  rfl

/-- A `RESEED` meets the one test of its length (42_seek_reseed.md R154). -/
theorem err_of_reseed {slen : Nat} (h : exec (.reseed slen) s = .next t) :
    t.err = if slen = 16 ∨ slen = 32 then .ok else .invalidSeedLength := by
  split
  case isTrue hlegal =>
    obtain ⟨k, hk⟩ : ∃ k, keyLenOfSeed slen = some k := by obtain rfl | rfl := hlegal <;> exact ⟨_, rfl⟩
    cases (exec_reseed_of_legal hk s).symm.trans h
    rfl
  case isFalse hillegal =>
    cases (exec_reseed_of_illegal (keyLenOfSeed_eq_none.mpr (not_or.mp hillegal)) s).symm.trans h
    rfl

/-- A command that completes with neither error of the tests before it has passed them (60_exceptions.md R197). -/
theorem tests_passed_of_exec (h : exec i s = .next t) (hi : i.isReseed = false) (hseed : t.err ≠ .notSeeded)
    (hkey : t.err ≠ .illegalCommand) : s.seeded = true ∧ (i.isErasure = true → s.keylen = .bits256) := by
  cases hs : s.seeded with
  | false => exact absurd (err_of_unseeded h hi hs) hseed
  | true => exact ⟨rfl, fun herase => by_contra fun hk => hkey (err_of_not_long_key h herase hs hk)⟩

/-- Past its tests an integer command ends with the code of its sampling, and on an error with its state (41_getint.md R137,
43_erasure.md R174). -/
theorem sampleInt_of_exec (h : exec i s = .next t) (hi : i = .getInt ∨ i = .eGetInt) (hs : s.seeded = true)
    (hk : i.isErasure = true → s.keylen = .bits256) :
    ∃ s', sampleInt Config.cipherE s = (t.err, s') ∧ (t.err ≠ .ok → t = { s' with err := t.err }) := by
  obtain ⟨c, s', hsample⟩ : ∃ c s', sampleInt Config.cipherE s = (c, s') := ⟨_, _, rfl⟩
  refine ⟨s', ?_⟩
  obtain rfl | rfl := hi
  · cases (getInt_of_sample hs hsample).symm.trans h
    exact ⟨hsample, fun _ => rfl⟩
  · by_cases hc : c = .ok
    · subst hc
      cases (eGetInt_of_sample_ok hs (hk rfl) hsample).symm.trans h
      exact ⟨hsample, fun herr => absurd rfl herr⟩
    · cases (eGetInt_of_sample_error hs (hk rfl) hc hsample).symm.trans h
      exact ⟨hsample, fun _ => rfl⟩

/-- The code of the sampling, test by test (41_getint.md R131, R136). -/
theorem sampleInt_code (E : Cipher) (s : State) : (sampleInt E s).1 =
    if operandMin s > operandMax s then .invalidRange
    else if operandMin s = operandMax s then .ok
    else if firstAccepted E s = none then .generatorExhausted else .ok := by
  split_ifs with hempty hsingle hnone
  · rw [sampleInt_of_empty hempty]
  · rw [sampleInt_of_single hsingle]
  · rw [sampleInt_of_exhausted (by omega) hnone]
  · obtain ⟨k, hk⟩ := Option.ne_none_iff_exists'.mp hnone
    rw [sampleInt_of_accepted (by omega) hk]

/-- The errors of the integer commands past the tests before them, in their order (60_exceptions.md R197). -/
theorem err_of_integer (h : exec i s = .next t) (hi : i = .getInt ∨ i = .eGetInt) (hs : s.seeded = true)
    (hk : i.isErasure = true → s.keylen = .bits256) :
    if operandMin s > operandMax s then t.err = .invalidRange
    else if operandMin s = operandMax s then t.err = .ok
    else t.err = if firstAccepted Config.cipherE s = none then .generatorExhausted else .ok := by
  obtain ⟨s', hsample, -⟩ := sampleInt_of_exec h hi hs hk
  have herr : t.err = _ := (congrArg Prod.fst hsample).symm.trans (sampleInt_code Config.cipherE s)
  rw [herr]
  split_ifs <;> rfl

/-- A sampling that gives up has made all 128 draws (41_getint.md R136). -/
theorem sampleInt_eq_exhausted {E : Cipher} {s' : State} (h : sampleInt E s = (.generatorExhausted, s')) :
    s' = afterDraws s 128 := by
  rcases lt_trichotomy (operandMin s) (operandMax s) with hlt | heq | hgt
  · cases hfirst : firstAccepted E s with
    | some k => cases (sampleInt_of_accepted hlt hfirst).symm.trans h
    | none =>
      cases (sampleInt_of_exhausted hlt hfirst).symm.trans h
      rfl
  · cases (sampleInt_of_single heq).symm.trans h
  · cases (sampleInt_of_empty hgt).symm.trans h

/-- On `GeneratorExhausted` the counter is 128 blocks further and the draws are recorded; nothing else (41_getint.md R137). -/
theorem state_of_exhausted (h : exec i s = .next t) (herr : t.err = .generatorExhausted) :
    t = { afterDraws s 128 with err := .generatorExhausted } := by
  have hi : i = .getInt ∨ i = .eGetInt := by
    obtain ⟨f, hf, rfl⟩ := exec_eq_next h
    exact hf.of_generatorExhausted herr
  have hreseed : i.isReseed = false := by obtain rfl | rfl := hi <;> rfl
  obtain ⟨hs, hk⟩ := tests_passed_of_exec h hreseed (by simp [herr]) (by simp [herr])
  obtain ⟨s', hsample, hstate⟩ := sampleInt_of_exec h hi hs hk
  rw [herr] at hsample hstate
  rw [hstate (by simp), sampleInt_eq_exhausted hsample]

end

/-! ## The seek words (30_encoding.md R82) -/

/-- A word of the seeks' `OP` with every bit but `E` and `MODE` as the map has it is a seek, whatever the two are. -/
theorem decode_of_seek_fields {w : Word} (hop : fieldOp w = 2) (hlow : fieldReservedLow w = 0) (hslen : fieldSlen w = 0)
    (hhigh : fieldReservedHigh w = 0) :
    decode w = .ok (if fieldE w = 0 then (if fieldMode w = 0 then .seekSet else .seekInc)
      else (if fieldMode w = 0 then .eSeekSet else .eSeekInc)) := by
  simp only [decode, hop, hlow, hslen, hhigh]
  split_ifs <;> simp_all

/-- A field inside a run of zero bits is zero. -/
theorem extractLsb'_of_zero_run {w : Word} {lo len : Nat} (h : w.extractLsb' lo len = 0) {start n : Nat} (hlo : lo ≤ start)
    (hlen : start + n ≤ lo + len) : w.extractLsb' start n = 0 := by
  ext j hj
  have hbit := congrArg (fun v => v.getLsbD (start - lo + j)) h
  simpa [show start - lo + j < len by omega, show lo + (start - lo + j) = start + j by omega] using hbit

/-! ## The obligations -/

/-- Settles O51: the test for a seed comes before anything else, and no other end has its code. -/
theorem nothingButReseedRunsUnseeded : Obligations.NothingButReseedRunsUnseeded := by
  refine ⟨fun i s hs hi => exec_of_unseeded hi hs, fun i s t h herr => ?_⟩
  obtain ⟨f, hf, rfl⟩ := exec_eq_next h
  exact hf.of_notSeeded herr

/-- Settles O52, test by test: the launch changes nothing that a test reads. -/
theorem testsAreMadeInOrder : Obligations.TestsAreMadeInOrder := by
  intro s t w rest hidle hhost h
  rw [step_of_command_write hidle hhost] at h
  cases hw : decode w with
  | error e =>
    cases (launch_of_error hw _).symm.trans h
    rfl
  | ok i =>
    rw [launch_of_ok hw] at h
    dsimp only
    by_cases hunseeded : i.isReseed = false ∧ s.seeded = false
    · rw [if_pos hunseeded]
      obtain ⟨hi, hs⟩ := hunseeded
      exact err_of_unseeded h hi hs
    rw [if_neg hunseeded]
    have hseeded (hi : i.isReseed = false) : s.seeded = true := by simpa [hi] using hunseeded
    by_cases hshort : i.isErasure = true ∧ s.keylen = .bits128
    · rw [if_pos hshort]
      obtain ⟨herase, hk⟩ := hshort
      exact err_of_not_long_key h herase (hseeded (isReseed_of_isErasure herase)) (by simp [hk])
    rw [if_neg hshort]
    have hlong (herase : i.isErasure = true) : s.keylen = .bits256 := by
      cases hk : s.keylen with
      | bits128 => exact absurd ⟨herase, hk⟩ hshort
      | bits256 => rfl
    cases i with
    | reseed slen => exact err_of_reseed h
    | getInt | eGetInt =>
      have herr := err_of_integer h (by simp) (hseeded rfl) hlong
      exact herr
    | seekSet | seekInc | getBytes | eSeekSet | eSeekInc | eGetBytes =>
      obtain ⟨f, hf, rfl⟩ := exec_eq_next h
      exact hf.code_of_no_own_error (by simp) (hseeded rfl) hlong

/-- Settles O53: of the effects that end with an error one clears the staging register, and one is a draw loop that gave up. -/
theorem errorsLeaveTheStateAsListed : Obligations.ErrorsLeaveTheStateAsListed := by
  refine ⟨fun w s e hw => ⟨_, launch_of_error hw s, rfl⟩, fun i s t h herr => ?_⟩
  by_cases hexhausted : t.err = .generatorExhausted
  · rw [state_of_exhausted h hexhausted]
    rfl
  · obtain ⟨f, hf, rfl⟩ := exec_eq_next h
    cases hf with
    | notSeeded | shortKey | invalidRange | badLength => rfl
    | exhaust => exact absurd rfl hexhausted
    | _ => exact absurd rfl herr

/-- Settles O54: no effect has the code and no other kind of step sets it; the decoder accepts a seek word with either value
of `E` and of `MODE`. -/
theorem invalidSeekModeIsNeverRaised : Obligations.InvalidSeekModeIsNeverRaised := by
  refine ⟨rfl, fun i s t h => ?_, fun s t h herr => ?_, fun w hop hlow hrest => ?_⟩
  · obtain ⟨f, hf, rfl⟩ := exec_eq_next h
    exact hf.code_ne_invalidSeekMode
  · cases step_eq_next h with
    | idle => exact herr
    | reset | illegalWord => cases herr
    | read | write => simpa using herr
    | command _ _ _ hf => exact absurd herr hf.code_ne_invalidSeekMode
  · exact decode_of_seek_fields hop hlow (extractLsb'_of_zero_run hrest (by decide) (by decide))
      (extractLsb'_of_zero_run hrest (by decide) (by decide))

end Sys2Proof.Machine
end

section
/-! Reset and the boot sequence (70_reset_and_hazards.md R220 to R224). -/

namespace Sys2Proof.Machine

/-! ## Reset -/

theorem step_of_reset {s : State} {caps : Caps} {rest : List HostAction} (h : s.host = .reset caps :: rest) :
    step s = .next { State.resetWith caps with host := rest, reads := s.reads } :=
  step_of_action h

/-- No effect takes `SEEDED` back to 0 (70_reset_and_hazards.md R222). -/
theorem Effect.apply_seeded_of_seeded (f : Effect) {s : State} (hs : s.seeded = true) : (f.apply s).seeded = true := by
  cases f with
  | install => rfl
  | _ => exact hs

/-- Settles O8: a reset answers a state made of the reset state and what is the host's; of the other kinds of step only those
a command word causes move the stream state, and no effect of a command clears `SEEDED`. -/
theorem resetIsTheOnlyWayBack : Obligations.ResetIsTheOnlyWayBack := by
  refine ⟨fun s caps rest h => step_of_reset h, fun s s' caps rest h hhost hreads => ?_, fun s t h => ?_⟩
  · rw [step_of_reset h, step_of_reset (hhost.trans h), hreads]
  · cases step_eq_next h with
    | idle => exact .inr (.inr ⟨rfl, rfl, rfl, rfl, rfl, rfl, rfl⟩)
    | reset hhost => exact .inl ⟨_, _, hhost⟩
    | read | write => exact .inr (.inr (by simp))
    | illegalWord hhost => exact .inr (.inl ⟨_, _, hhost, id⟩)
    | command hhost _ _ hf => exact .inr (.inl ⟨_, _, hhost, fun hs => Effect.apply_seeded_of_seeded _ hs⟩)

/-! ## The boot sequence (70_reset_and_hazards.md R224) -/

/-- The seed operand of a loaded `RESEED` line is the line's own seed (30_encoding.md R90, R91). -/
theorem operandSeed_loaded {seed : ByteString} (h : seed.length ≤ 32) (counter : Counter) (s : State) :
    operandSeed seed.length ((AsmLine.reseed seed counter).loaded s) = seed := by
  apply List.ext_getElem
  · simp [length_operandSeed, h]
  · intro j hj hseed
    have hreached : j < 4 * ceilDiv seed.length 4 := by
      unfold ceilDiv
      omega
    simp [operandSeed, AsmLine.loaded, stagedSeed, hreached, hseed]

/-- A `RESEED` of a legal length installs the bytes it takes, and the counter in `POS` (42_seek_reseed.md R153). -/
theorem exec_reseed_installs {slen : Nat} {k : KeyLen} (hk : keyLenOfSeed slen = some k) (s : State) :
    exec (.reseed slen) s = .next ((Effect.install (toSeed (operandSeed slen s)) k s.pos).apply s) := by
  rw [exec_reseed_of_legal hk]
  rfl

/-- The key of an installed seed is the seed itself, whichever of the two lengths it has (20_memory.md R58). -/
theorem key_bytes_of_seed {seed : ByteString} {s : State} (hk : keyLenOfSeed seed.length = some s.keylen)
    (hseed : s.seed = toSeed seed) : s.key.bytes = seed := by
  obtain ⟨hlen, hshort⟩ | ⟨hlen, hlong⟩ := keyLenOfSeed_eq_some.mp hk
  · apply List.ext_getElem
    · simp [State.key, hshort, Key.bytes, hlen]
    · intro j hj hj'
      simp [State.key, hshort, Key.bytes, hseed, getElem_toSeed, hj']
  · rw [key_of_long_key hlong, hseed]
    exact toSeed_toList hlen

theorem loads_status_read (s : State) : Loads [read32 0x04] s { s with reads := s.reads ++ [statusWord s] } := fun rest =>
  run_succ_of_step (step_of_read (s := s.withHost (read32 0x04 :: rest)) (r := .status) rfl rfl (by simp [readNeedsIdle]))

/-- A write of a command's word takes an idle SSG where the command takes it, whatever is pending behind the write. -/
theorem loads_command {s t : State} {i : Instr} (hout : s.out = []) (hwf : i.wellFormed = true)
    (hexec : ∀ rest, exec i (beginCommand (s.withHost rest)) = .next (t.withHost rest)) :
    Loads [write32 0x00 (encode i)] s t := fun rest => by
  have hlaunch := run_one_of_command_write (s := s.withHost (write32 0x00 (encode i) :: rest))
    (by simp [State.busy, hout]) rfl
  exact hlaunch.trans ((launch_of_ok (decode_encode hwf) _).trans (hexec rest))

/-- The state a `RESEED` line of a legal length ends in, its seed staged over `s` (30_encoding.md R91, 42_seek_reseed.md R153). -/
def State.reseeded (seed : ByteString) (k : KeyLen) (counter : Counter) (s : State) : State :=
  (Effect.install (toSeed seed) k counter).apply (beginCommand ((AsmLine.reseed seed counter).loaded s))

/-- The accesses of a `RESEED` line of a legal length install its seed and its counter on an idle SSG. -/
theorem loads_reseed {seed : ByteString} {k : KeyLen} (hk : keyLenOfSeed seed.length = some k) (counter : Counter)
    {s : State} (hout : s.out = []) :
    ∃ acts, (AsmLine.reseed seed counter).actions = some acts ∧ Loads acts s (s.reseeded seed k counter) := by
  have hlen : seed.length ≤ 32 := by
    obtain ⟨h, -⟩ | ⟨h, -⟩ := keyLenOfSeed_eq_some.mp hk <;> omega
  have hwf : (Instr.reseed seed.length).wellFormed = true := by
    simp only [Instr.wellFormed, decide_eq_true_eq]
    omega
  refine ⟨_, actions_eq_some.mpr ⟨hwf, rfl⟩,
    (loads_operands _ hout).append (loads_command ((out_loaded _ s).trans hout) hwf fun rest => ?_)⟩
  have hseed : operandSeed seed.length (beginCommand (((AsmLine.reseed seed counter).loaded s).withHost rest)) = seed :=
    operandSeed_loaded hlen counter s
  rw [AsmLine.instr, exec_reseed_installs hk, hseed]
  rfl

/-- Settles O60: the `RESEED` line installs the seed and completes with `OK`, and the read returns the `STATUS` of that state. -/
theorem bootSequenceSeedsTheBlock : Obligations.BootSequenceSeedsTheBlock := by
  intro caps seed c hlen
  obtain ⟨k, hk⟩ : ∃ k, keyLenOfSeed seed.length = some k := by
    obtain h | h := hlen <;> rw [h] <;> exact ⟨_, rfl⟩
  obtain ⟨acts, hacts, hload⟩ := loads_reseed hk c (s := State.resetWith caps) rfl
  have hrun := hload.append (loads_status_read _) []
  rw [List.append_nil] at hrun
  obtain ⟨-, -, hseeded, -, -, herr, -⟩ := statusFieldsReadAsListed.1 ((State.resetWith caps).reseeded seed k c)
  exact ⟨_, _, _, bootActions_eq_some.mpr ⟨acts, hacts, rfl⟩, hrun, rfl, hseeded, herr, rfl,
    take_toSeed (by omega), key_bytes_of_seed hk rfl, rfl, fun j => getElem_zeroSeed j.val j.isLt, rfl⟩

end Sys2Proof.Machine
end
